-- ==== Sys2Proof/Word.lean ====
section
/-! DEFINITION. The data types of the block: bytes and fixed-length byte strings (spec/00_scope.md R8, R9, R12, R14).

Everything the block holds is an unsigned byte or a string of unsigned bytes of a fixed length. A `Vector Byte n` is a
byte string of length `n` in the sense of R9: index 0 is the first byte, the one written first and stored at the lowest
address. The lengths are the parameters of R7 (Sys2Proof/Config.lean). -/

namespace Sys2Proof

/-- A byte, 0..255, bit 7 the most significant (R8). -/
abbrev Byte := BitVec 8

/-- A 16-byte string: a cipher key, a cipher block, a round key, a tag (R7: `KEY_BYTES`, `BLOCK_BYTES`, `TAG_BYTES`). -/
abbrev Block := Vector Byte 16

/-- A 4-byte string: a word of the key expansion (spec/41_aes_ecb.md R100). -/
abbrev KeyWord := Vector Byte 4

/-- The 36 characters of a UUID's text, one byte each (R7: `STR_BYTES`). -/
abbrev UuidText := Vector Byte 36

/-- The message buffer of the general `CMAC` command (R7: `MSG_MAX`). -/
abbrev MsgBuffer := Vector Byte 64

/-- A derived address (R7: `ADDR_BYTES`). -/
abbrev DeviceAddress := Vector Byte 6

end Sys2Proof
end

