-- ==== Sys2Proof/Config.lean ====
section
/-! DEFINITION. The parameters and constants of the block (spec/00_scope.md R7, spec/10_state.md R35).

Every parameter of R7 has one value. The one parameter R7 leaves open, `N_INSTANCES`, is the argument `n` of
Sys2Proof/Machine/Instances.lean, and `BASE` (spec/20_memory.md R43) is read by no rule, so nothing here stands for it:
every address of the model is relative to the window. The block has no value that the spec leaves free
(spec/93_implementation_defined.md: "Nothing in the block yields any value"), so there is no opaque constant. -/

namespace Sys2Proof.Config

/-- `BLOCK_BYTES`, equal to `KEY_BYTES` and `TAG_BYTES` (R7). -/
abbrev blockBytes : Nat := 16

/-- `NK`: words of the key (R7). -/
abbrev nk : Nat := 4

/-- `NR`: rounds of the cipher for a 128-bit key (R7). -/
abbrev nr : Nat := 10

/-- `STR_BYTES`: characters of the canonical UUID text (R7). -/
abbrev strBytes : Nat := 36

/-- `MSG_MAX`: capacity of the message buffer (R7). -/
abbrev msgMax : Nat := 64

/-- `ADDR_BYTES`: bytes of the derived address (R7). -/
abbrev addrBytes : Nat := 6

/-- `LABEL`: the ASCII bytes of "candy", the message `DERIVE` authenticates (R7, R35). -/
def label : List Byte := [0x63, 0x61, 0x6E, 0x64, 0x79]

/-- `MASK`: the OR mask on the first byte of the address (R7, R35). -/
def mask : Byte := 0xC0

/-- `RB`: the constant of the CMAC doubling (R7, R35). -/
def rb : Byte := 0x87

end Sys2Proof.Config
end

