-- ==== Sys2Proof/Syntax.lean ====
section
/-! DEFINITION. What a host can say to the block: the six commands, the three kinds of transaction, and the script
notation for sequences of transactions (spec/30_encoding.md, spec/20_memory.md R40). -/

namespace Sys2Proof

/-- The command set, one constructor per row of spec/opcode_table.json (spec/30_encoding.md R61). A command has no
operand field of any kind (R60, R62): it always works on the registers that spec/10_state.md R30 lists for it. -/
inductive Instr
  /-- `PARSE`, opcode `0x01` (spec/40_uuid_parse.md R80). -/
  | parse
  /-- `ECBENC`, opcode `0x02` (spec/41_aes_ecb.md R105). -/
  | ecbenc
  /-- `CMAC`, opcode `0x03` (spec/42_cmac.md R124). -/
  | cmac
  /-- `EXTRACT`, opcode `0x04` (spec/43_extract_derive.md R135). -/
  | extract
  /-- `DERIVE`, opcode `0x05` (spec/43_extract_derive.md R139). -/
  | derive
  /-- `CLEAR`, opcode `0x06` (spec/44_system.md R146). -/
  | clear
  deriving DecidableEq, Repr

/-- One transaction of the host, the unit of execution (spec/20_memory.md R40). There is no width: every transaction
moves one byte (R48). -/
inductive Transaction
  /-- `Read(a)`: returns the byte at address `a` (R41). -/
  | read (a : Byte)
  /-- `Write(a, v)`: a data write, or the command `v` when `a` is `CMD` (R42). -/
  | write (a v : Byte)
  /-- `Reset` (spec/70_reset_and_hazards.md R170). -/
  | reset
  deriving DecidableEq, Repr

/-- The registers of more than one byte (spec/00_scope.md, glossary "buffer"). -/
inductive Buffer
  | key | blkin | blkout | tag | addr | str | msg
  deriving DecidableEq, Repr

/-- A register operand of a script line: an address, the name of a one-byte register, or a buffer name with an offset
(spec/30_encoding.md R65). -/
inductive RegRef
  | address (a : Byte)
  | cmd
  | status
  | strlen
  | msglen
  | buffer (b : Buffer) (offset : Nat)
  deriving DecidableEq, Repr

/-- One line of a script: a transaction (R65) or a pseudo-instruction (R66). -/
inductive ScriptLine
  /-- `wr <reg>, <byte>`. -/
  | wr (r : RegRef) (v : Byte)
  /-- `rd <reg>`. -/
  | rd (r : RegRef)
  /-- `cmd <MNEMONIC>`. -/
  | cmd (i : Instr)
  /-- `reset`. -/
  | reset
  /-- `ldkey <32 hex digits>`; the bytes of the hex string in offset order. -/
  | ldkey (h : List Byte)
  /-- `ldblk <32 hex digits>`. -/
  | ldblk (h : List Byte)
  /-- `ldtag <32 hex digits>`. -/
  | ldtag (h : List Byte)
  /-- `ldmsg <2n hex digits>`, 0 <= n <= 64. -/
  | ldmsg (h : List Byte)
  /-- `ldstr "<text>"`; the ASCII bytes of the text. -/
  | ldstr (text : List Byte)
  /-- `expect <reg or buffer> = <hex>`. -/
  | expect (r : RegRef) (h : List Byte)
  deriving DecidableEq, Repr

end Sys2Proof
end

