-- ==== Sys2Proof/WellFormed.lean ====
section
/-! DEFINITION. Which terms of the syntax the spec admits.

A command carries no field (spec/30_encoding.md R60), so every `Instr` is well formed. A transaction carries an 8-bit
address and an 8-bit byte, so every `Transaction` is well formed too. What can be ill formed is a transaction word in the
notation of R64 and a line of a script (R65, R66). -/

namespace Sys2Proof

/-- A command has no operand that could be out of range (spec/30_encoding.md R60, R62). -/
def Instr.wf : Instr → Bool
  | .parse => true
  | .ecbenc => true
  | .cmac => true
  | .extract => true
  | .derive => true
  | .clear => true

/-- A transaction word that the notation produces: the `data` field of a `Read` is zero (spec/30_encoding.md R64). -/
def wordCanonical (w : BitVec 17) : Bool := w.getLsbD 16 || w.extractLsb' 0 8 == 0#8

/-- The length of a buffer (spec/10_state.md R20). -/
def Buffer.size : Buffer → Nat
  | .key => Config.blockBytes
  | .blkin => Config.blockBytes
  | .blkout => Config.blockBytes
  | .tag => Config.blockBytes
  | .addr => Config.addrBytes
  | .str => Config.strBytes
  | .msg => Config.msgMax

/-- A register operand names a byte that exists: an offset lies inside its buffer (spec/20_memory.md R43). -/
def RegRef.wf : RegRef → Bool
  | .address _ => true
  | .cmd => true
  | .status => true
  | .strlen => true
  | .msglen => true
  | .buffer b offset => decide (offset < b.size)

/-- How many consecutive bytes an `expect` can name from a register operand on (spec/30_encoding.md R66). DESIGN CHOICE
(notes/assumptions/5.md): R66 says one `rd` per byte, ascending, and sets no limit. The model takes one byte at a register
name, the rest of the buffer at a buffer byte, and at a bare numeric address every byte up to the end of the window,
`0xFF`, whatever registers those addresses belong to (spec/20_memory.md R43). -/
def RegRef.room : RegRef → Nat
  | .address a => 256 - a.toNat
  | .cmd => 1
  | .status => 1
  | .strlen => 1
  | .msglen => 1
  | .buffer b offset => b.size - offset

/-- The lines that R65 and R66 admit: 32 hex digits are 16 bytes, `ldmsg` takes 0 to 64 bytes, `ldstr` any text,
`expect` at least one byte and no more than its operand has room for. -/
def ScriptLine.wf : ScriptLine → Bool
  | .wr r _ => r.wf
  | .rd r => r.wf
  | .cmd i => i.wf
  | .reset => true
  | .ldkey h => h.length == Config.blockBytes
  | .ldblk h => h.length == Config.blockBytes
  | .ldtag h => h.length == Config.blockBytes
  | .ldmsg h => decide (h.length ≤ Config.msgMax)
  | .ldstr _ => true
  | .expect r h => r.wf && decide (0 < h.length) && decide (h.length ≤ r.room)

end Sys2Proof
end

