-- ==== Sys2Proof/Decode.lean ====
section
/-! DEFINITION. The decoder and the encoder: opcode bytes (spec/30_encoding.md R60, R61, R63, R67) and transaction words
(R64).

Decoding an opcode is total and depends on the byte alone (R63). A byte that is no opcode is rejected by name. -/

namespace Sys2Proof

/-- Why a byte is no command: `Illegal(v)` of R63, the byte `v` itself. -/
inductive DecodeError
  | illegal (v : Byte)
  deriving DecidableEq, Repr

/-- `decode(v)` of R63: the map of R61 from opcodes to commands, and `Illegal(v)` for the other 250 values (R67). -/
def decode (v : Byte) : Except DecodeError Instr :=
  if v = 0x01 then .ok .parse
  else if v = 0x02 then .ok .ecbenc
  else if v = 0x03 then .ok .cmac
  else if v = 0x04 then .ok .extract
  else if v = 0x05 then .ok .derive
  else if v = 0x06 then .ok .clear
  else .error (.illegal v)

/-- The opcode of a command, format `C8` (R60, R61). -/
def encode : Instr → Byte
  | .parse => 0x01
  | .ecbenc => 0x02
  | .cmac => 0x03
  | .extract => 0x04
  | .derive => 0x05
  | .clear => 0x06

/-- The mnemonic of a command, upper case (R61, R65). -/
def mnemonic : Instr → String
  | .parse => "PARSE"
  | .ecbenc => "ECBENC"
  | .cmac => "CMAC"
  | .extract => "EXTRACT"
  | .derive => "DERIVE"
  | .clear => "CLEAR"

/-- The command set in the order of R61. -/
def allCommands : List Instr := [.parse, .ecbenc, .cmac, .extract, .derive, .clear]

/-- The transaction word of a transaction, format `T17`: `wr` in bit 16, `addr` in bits 15:8, `data` in bits 7:0, zero in
a `Read`. A `Reset` has no transaction word (R64). -/
def encodeTransaction : Transaction → Option (BitVec 17)
  | .write a v => some ((1#1 ++ a) ++ v)
  | .read a => some ((0#1 ++ a) ++ 0#8)
  | .reset => none

/-- The transaction a word denotes. A `Read` word with non-zero `data` denotes the same read (R64). -/
def decodeTransaction (w : BitVec 17) : Transaction :=
  if w.getLsbD 16 then .write (w.extractLsb' 8 8) (w.extractLsb' 0 8) else .read (w.extractLsb' 8 8)

/-- The decoder on an instruction whose bits are `w`, numbered as spec/opcode_table.json numbers them. A command is one
byte (R60), so a word that needs more than eight bits is no command. -/
def decodeTableWord (nbits w : Nat) : Option Instr :=
  if nbits ≤ 8 ∧ w < 256 then
    match decode (BitVec.ofNat 8 w) with
    | .ok i => some i
    | .error _ => none
  else none

end Sys2Proof
end

