-- ==== Sys2Proof/Machine/Bytes.lean ====
section
/-! DEFINITION. Byte strings: exclusive-or, blocks made from lists, and the 128-bit integer view of a block
(spec/00_scope.md R9, R10, R11, R12). -/

namespace Sys2Proof.Machine

/-- `0^16` (R9). -/
def zeroBlock : Block := Vector.replicate 16 0

/-- `a ⊕ b` on 16-byte strings, byte by byte (R11). -/
def xorBlock (a b : Block) : Block := Vector.ofFn fun i => a[i] ^^^ b[i]

/-- The 16-byte string whose byte at offset `i` is the list's, and zero beyond the list's end. -/
def blockOfList (l : List Byte) : Block := Vector.ofFn fun i => l.getD i 0

/-- `int(s)` of R10: the unsigned integer whose most significant byte is byte 0. -/
def blockInt (s : Block) : Nat := s.toList.foldl (fun acc b => acc * 256 + b.toNat) 0

/-- `bytes16(v)` of R10: byte `i` is bits `8*(15-i)+7` to `8*(15-i)` of `v`. -/
def bytes16 (v : Nat) : Block := Vector.ofFn fun i => BitVec.ofNat 8 (v / 2 ^ (8 * (15 - i.val)))

end Sys2Proof.Machine
end

