-- ==== Sys2Proof/Machine/Gf.lean ====
section
/-! DEFINITION. Arithmetic in GF(2^8) and the construction of the S-box (spec/41_aes_ecb.md R90, R91, R92). -/

namespace Sys2Proof.Machine

/-- `xtime(a)`: multiplication by `0x02` modulo x^8 + x^4 + x^3 + x + 1 (R90). -/
def xtime (a : Byte) : Byte := if a.getLsbD 7 then (a <<< 1) ^^^ 0x1B else a <<< 1

/-- `xtime^i(a)`: `xtime` applied `i` times (R91). -/
def xtimePow : Nat → Byte → Byte
  | 0, a => a
  | i + 1, a => xtime (xtimePow i a)

/-- `a • b`: the exclusive-or of `xtime^i(a)` over every `i` in 0..7 with `b[i] = 1` (R91). -/
def gfMul (a b : Byte) : Byte :=
  (List.range 8).foldl (fun acc i => if b.getLsbD i then acc ^^^ xtimePow i a else acc) 0

/-- `0x02 • a` (R91). -/
def mulBy2 (a : Byte) : Byte := xtime a

/-- `0x03 • a` (R91). -/
def mulBy3 (a : Byte) : Byte := xtime a ^^^ a

/-- `rotl8(b, n)`: the byte rotated left by `n` bits (R92). -/
def rotl8 (b : Byte) (n : Nat) : Byte := (b <<< n) ||| (b >>> (8 - n))

/-- The affine map of R92, from an inverse to an S-box entry. -/
def sboxAffine (b : Byte) : Byte := b ^^^ rotl8 b 1 ^^^ rotl8 b 2 ^^^ rotl8 b 3 ^^^ rotl8 b 4 ^^^ 0x63

/-- `inv(a)` of R92, "the byte `b` with `a • b = 0x01`", and zero for zero: found by search over the 256 bytes. -/
def gfInv (a : Byte) : Byte :=
  match (List.range 256).find? fun n => gfMul a (BitVec.ofNat 8 n) == 0x01 with
  | some n => BitVec.ofNat 8 n
  | none => 0x00

/-- `SBOX[a]` as R92 constructs it. -/
def sboxByRule (a : Byte) : Byte := sboxAffine (gfInv a)

end Sys2Proof.Machine
end

