-- ==== Sys2Proof/Machine/Aes.lean ====
section
/-! DEFINITION. The AES-128 forward cipher and ECB mode (spec/41_aes_ecb.md R93 to R104).

The cipher's state is held in the flat view of R94: the 16-byte string `t` with `t[r + 4*c] = s[r][c]`. There is no
inverse cipher (R106). -/

namespace Sys2Proof.Machine

/-- The S-box table of R93, one list a row: the row is the high hex digit of the index, the column the low one. -/
def sboxTable : List (List Byte) :=
  [[0x63, 0x7c, 0x77, 0x7b, 0xf2, 0x6b, 0x6f, 0xc5, 0x30, 0x01, 0x67, 0x2b, 0xfe, 0xd7, 0xab, 0x76],
   [0xca, 0x82, 0xc9, 0x7d, 0xfa, 0x59, 0x47, 0xf0, 0xad, 0xd4, 0xa2, 0xaf, 0x9c, 0xa4, 0x72, 0xc0],
   [0xb7, 0xfd, 0x93, 0x26, 0x36, 0x3f, 0xf7, 0xcc, 0x34, 0xa5, 0xe5, 0xf1, 0x71, 0xd8, 0x31, 0x15],
   [0x04, 0xc7, 0x23, 0xc3, 0x18, 0x96, 0x05, 0x9a, 0x07, 0x12, 0x80, 0xe2, 0xeb, 0x27, 0xb2, 0x75]] ++
  [[0x09, 0x83, 0x2c, 0x1a, 0x1b, 0x6e, 0x5a, 0xa0, 0x52, 0x3b, 0xd6, 0xb3, 0x29, 0xe3, 0x2f, 0x84],
   [0x53, 0xd1, 0x00, 0xed, 0x20, 0xfc, 0xb1, 0x5b, 0x6a, 0xcb, 0xbe, 0x39, 0x4a, 0x4c, 0x58, 0xcf],
   [0xd0, 0xef, 0xaa, 0xfb, 0x43, 0x4d, 0x33, 0x85, 0x45, 0xf9, 0x02, 0x7f, 0x50, 0x3c, 0x9f, 0xa8],
   [0x51, 0xa3, 0x40, 0x8f, 0x92, 0x9d, 0x38, 0xf5, 0xbc, 0xb6, 0xda, 0x21, 0x10, 0xff, 0xf3, 0xd2]] ++
  [[0xcd, 0x0c, 0x13, 0xec, 0x5f, 0x97, 0x44, 0x17, 0xc4, 0xa7, 0x7e, 0x3d, 0x64, 0x5d, 0x19, 0x73],
   [0x60, 0x81, 0x4f, 0xdc, 0x22, 0x2a, 0x90, 0x88, 0x46, 0xee, 0xb8, 0x14, 0xde, 0x5e, 0x0b, 0xdb],
   [0xe0, 0x32, 0x3a, 0x0a, 0x49, 0x06, 0x24, 0x5c, 0xc2, 0xd3, 0xac, 0x62, 0x91, 0x95, 0xe4, 0x79],
   [0xe7, 0xc8, 0x37, 0x6d, 0x8d, 0xd5, 0x4e, 0xa9, 0x6c, 0x56, 0xf4, 0xea, 0x65, 0x7a, 0xae, 0x08]] ++
  [[0xba, 0x78, 0x25, 0x2e, 0x1c, 0xa6, 0xb4, 0xc6, 0xe8, 0xdd, 0x74, 0x1f, 0x4b, 0xbd, 0x8b, 0x8a],
   [0x70, 0x3e, 0xb5, 0x66, 0x48, 0x03, 0xf6, 0x0e, 0x61, 0x35, 0x57, 0xb9, 0x86, 0xc1, 0x1d, 0x9e],
   [0xe1, 0xf8, 0x98, 0x11, 0x69, 0xd9, 0x8e, 0x94, 0x9b, 0x1e, 0x87, 0xe9, 0xce, 0x55, 0x28, 0xdf],
   [0x8c, 0xa1, 0x89, 0x0d, 0xbf, 0xe6, 0x42, 0x68, 0x41, 0x99, 0x2d, 0x0f, 0xb0, 0x54, 0xbb, 0x16]]

/-- `SBOX[a]` (R93). -/
def sbox (a : Byte) : Byte := (sboxTable.getD (a.toNat / 16) []).getD (a.toNat % 16) 0

/-! ### The four transformations of the state -/

/-- `s[r][c]` of the array view, read from the flat view (R94). -/
def cell (t : Block) (r c : Fin 4) : Byte := t[r.val + 4 * c.val]

/-- `SubBytes` (R96). -/
def subBytes (t : Block) : Block := Vector.ofFn fun i => sbox t[i]

/-- `ShiftRows`, flat: `t'[i] = t[(i + 4*(i mod 4)) mod 16]` (R97). -/
def shiftRows (t : Block) : Block :=
  Vector.ofFn fun i => t[(i.val + 4 * (i.val % 4)) % 16]'(Nat.mod_lt _ (by decide))

/-- Row `r` of a column that `MixColumns` has transformed (R98). -/
def mixColumnByte (r : Nat) (a0 a1 a2 a3 : Byte) : Byte :=
  match r with
  | 0 => mulBy2 a0 ^^^ mulBy3 a1 ^^^ a2 ^^^ a3
  | 1 => a0 ^^^ mulBy2 a1 ^^^ mulBy3 a2 ^^^ a3
  | 2 => a0 ^^^ a1 ^^^ mulBy2 a2 ^^^ mulBy3 a3
  | _ => mulBy3 a0 ^^^ a1 ^^^ a2 ^^^ mulBy2 a3

/-- `MixColumns`: byte `i` lies in column `i / 4`, row `i mod 4` (R94, R98). -/
def mixColumns (t : Block) : Block :=
  Vector.ofFn fun i =>
    mixColumnByte (i.val % 4) (t[4 * (i.val / 4)]'(by omega)) (t[4 * (i.val / 4) + 1]'(by omega))
      (t[4 * (i.val / 4) + 2]'(by omega)) (t[4 * (i.val / 4) + 3]'(by omega))

/-- `AddRoundKey` (R102). -/
def addRoundKey (t rk : Block) : Block := xorBlock t rk

/-! ### The key expansion -/

/-- `RCON[j]`: `RCON[1] = 0x01`, `RCON[j+1] = xtime(RCON[j])` (R99). Used for `j` in 1..10. -/
def rcon (j : Nat) : Byte := xtimePow (j - 1) 0x01

/-- The word of four zero bytes. -/
def zeroWord : KeyWord := Vector.replicate 4 0

/-- Exclusive-or of words, byte by byte (R100). -/
def xorWord (a b : KeyWord) : KeyWord := Vector.ofFn fun i => a[i] ^^^ b[i]

/-- `RotWord(a0 a1 a2 a3) = a1 a2 a3 a0` (R100). -/
def rotWord (w : KeyWord) : KeyWord := #v[w[1], w[2], w[3], w[0]]

/-- `SubWord` (R100). -/
def subWord (w : KeyWord) : KeyWord := Vector.ofFn fun i => sbox w[i]

/-- The round constant as a word: `RCON[j] 00 00 00` (R99). -/
def rconWord (j : Nat) : KeyWord := #v[rcon j, 0, 0, 0]

/-- `w[i]` for `i` in 0..3: four bytes of the key (R101). -/
def keyWord (k : Block) (i : Fin 4) : KeyWord := Vector.ofFn fun j => k[4 * i.val + j.val]

/-- `w[i]` for `i >= 4`, from the words before it (R101). -/
def nextWord (ws : List KeyWord) (i : Nat) : KeyWord :=
  xorWord (ws.getD (i - 4) zeroWord)
    (if i % 4 = 0 then xorWord (subWord (rotWord (ws.getD (i - 1) zeroWord))) (rconWord (i / 4))
     else ws.getD (i - 1) zeroWord)

/-- The words `w[0 .. 43]` of `KeyExpansion(K)` (R101). -/
def keyWords (k : Block) : List KeyWord :=
  (List.range' 4 40).foldl (fun ws i => ws ++ [nextWord ws i]) [keyWord k 0, keyWord k 1, keyWord k 2, keyWord k 3]

/-- `rk[r] = w[4r] ‖ w[4r+1] ‖ w[4r+2] ‖ w[4r+3]` (R101). -/
def roundKeyOf (ws : List KeyWord) (r : Nat) : Block :=
  Vector.ofFn fun i => (ws.getD (4 * r + i.val / 4) zeroWord)[i.val % 4]'(Nat.mod_lt _ (by decide))

/-- `rk[r]` for the key `K`, `r` in 0..10 (R101). -/
def roundKey (k : Block) (r : Nat) : Block := roundKeyOf (keyWords k) r

/-! ### The cipher and the mode -/

/-- One of the rounds 1 to 9 (R103). -/
def cipherRound (t rk : Block) : Block := addRoundKey (mixColumns (shiftRows (subBytes t))) rk

/-- The tenth round, which has no `MixColumns` (R103). -/
def finalRound (t rk : Block) : Block := addRoundKey (shiftRows (subBytes t)) rk

/-- The state at the start of round `n + 1`, after `n` of the rounds 1 to 9 (R103). -/
def cipherState (k p : Block) (n : Nat) : Block :=
  (List.range' 1 n).foldl (fun t r => cipherRound t (roundKey k r)) (addRoundKey p (roundKey k 0))

/-- `AES(K, P)`, the forward cipher (R103). -/
def aes (k p : Block) : Block := finalRound (cipherState k p (Config.nr - 1)) (roundKey k Config.nr)

/-- ECB mode: each block on its own, the same key (R104). -/
def ecb (k : Block) (ps : List Block) : List Block := ps.map (aes k)

end Sys2Proof.Machine
end

