-- ==== Sys2Proof/Machine/State.lean ====
section
/-! DEFINITION. The state of one block, the reasons a step could stop, and the state after reset.

The first ten fields are the state record of spec/10_state.md R20, 173 bytes, and there is no other architectural state
(R36). The last two fields are the model's own: they hold the host's side of the interface, since a step of the model
takes no argument and returns nothing but the next state, where the spec's step takes a transaction and returns read data
(spec/00_scope.md R6; notes/assumptions/1.md). Neither is visible to the host through the register window, and no
command reads or writes them. -/

namespace Sys2Proof.Machine

/-- The state of one instance of the block. -/
structure State where
  /-- `STR`: the UUID text, first character at offset 0 (R22). -/
  str : UuidText
  /-- `STRLEN`: the length of the host's string, 0..255 (R23). -/
  strlen : Byte
  /-- `KEY`: the cipher key (R21). -/
  key : Block
  /-- `MSG`: the message of the general `CMAC` command (R24). -/
  msg : MsgBuffer
  /-- `MSGLEN`: how many bytes of `MSG` are the message (R25). -/
  msglen : Byte
  /-- `BLKIN`: the plaintext block of `ECBENC` (R26). -/
  blkin : Block
  /-- `BLKOUT`: the ciphertext block of the last `ECBENC` (R27). -/
  blkout : Block
  /-- `TAG`: the CMAC tag (R28). -/
  tag : Block
  /-- `ADDR`: the derived address (R29). -/
  addr : DeviceAddress
  /-- `STATUS`: the outcome of the last command (R32). -/
  status : Byte
  /-- MODEL FIELD: the transactions the host has issued and the block has not yet taken, oldest first
  (notes/assumptions/1.md). -/
  pending : List Transaction
  /-- MODEL FIELD: the bytes that `Read` transactions have returned to the host, oldest first
  (notes/assumptions/1.md). -/
  replies : List Byte
  deriving DecidableEq, Repr

/-- The errors a command can raise (spec/60_exceptions.md R150). An error is no fault of the machine: it writes `STATUS`
and the block goes on (R153, R155). -/
inductive Err
  /-- Code 1, raised by `PARSE` and `DERIVE` (R151). -/
  | parseError
  /-- Code 2, raised by a write of a byte that is no opcode to `CMD`; the byte is not kept (R152). -/
  | illegalCommand (v : Byte)
  /-- Code 3, raised by `CMAC` (R158). -/
  | badLength
  deriving DecidableEq, Repr

/-- The reasons the machine stops. There is none: "The block itself never halts, never becomes stuck and never refuses a
transaction" (spec/70_reset_and_hazards.md R174), and every address, opcode and operand has an effect. Safe: nothing is
stopped that the hardware would run. -/
inductive Fault
  deriving DecidableEq, Repr

/-- The reasons the model gives an instruction no meaning. -/
inductive Refusal
  /-- Raised by an arm of `exec` whose instruction has no meaning yet; no arm of this model raises it. Safe: the model
  stops. -/
  | notModelled (mnemonic : String)
  deriving DecidableEq, Repr

/-- The state after reset: every byte of every register is zero (spec/10_state.md R37), no transaction is pending and no
reply has been given (notes/assumptions/1.md). -/
def State.reset : State where
  str := Vector.replicate 36 0
  strlen := 0
  key := Vector.replicate 16 0
  msg := Vector.replicate 64 0
  msglen := 0
  blkin := Vector.replicate 16 0
  blkout := Vector.replicate 16 0
  tag := Vector.replicate 16 0
  addr := Vector.replicate 6 0
  status := 0
  pending := []
  replies := []

end Sys2Proof.Machine
end

