-- ==== Sys2Proof/Machine/Flags.lean ====
section
/-! DEFINITION. The `STATUS` byte: its fields and the values commands give it (spec/10_state.md R32, R33,
spec/60_exceptions.md R150, R153). The block has no other flag: no command's result depends on one (spec/10_state.md,
section 4). -/

namespace Sys2Proof.Machine

/-- `OK`, bit 0 of `STATUS` (R32). -/
def okFlag (v : Byte) : Bool := v.getLsbD 0

/-- `ERR`, bit 1 of `STATUS` (R32). -/
def errFlag (v : Byte) : Bool := v.getLsbD 1

/-- `ERRCODE`, bits 7:4 of `STATUS` (R32). -/
def errCode (v : Byte) : BitVec 4 := v.extractLsb' 4 4

/-- `code(E)` of R150. -/
def Err.code : Err → BitVec 4
  | .parseError => 1
  | .illegalCommand _ => 2
  | .badLength => 3

/-- `STATUS` after a command that completed without error (R33). -/
def statusOk : Byte := 0x01

/-- `STATUS` after a command that raised `e`: `(code(E) << 4) | 0x02` (R153). -/
def statusOfErr (e : Err) : Byte := ((e.code.setWidth 8) <<< 4) ||| 0x02

/-- The five values that `STATUS` takes (R33). -/
def legalStatus (v : Byte) : Bool := v == 0x00 || v == 0x01 || v == 0x12 || v == 0x22 || v == 0x32

end Sys2Proof.Machine
end

