-- ==== Sys2Proof/Machine/Ops.lean ====
section
/-! DEFINITION. The named operations over the registers: one setter per field, the register window through which the host
reads and writes (spec/20_memory.md R41 to R46), what every command does at its end (success, R32; raising an error,
spec/60_exceptions.md R153), and reset (spec/70_reset_and_hazards.md R170).

The block has no memory: its one address space is the window of R43, and each of the 256 addresses is a byte of a
register, the command register, or reserved. There is no return from an error and nothing to restore
(spec/60_exceptions.md R155), so no operation stands for one. -/

namespace Sys2Proof.Machine

/-! ### Setters: one field each, everything else unchanged -/

def State.setStr (s : State) (x : UuidText) : State := { s with str := x }
def State.setStrlen (s : State) (x : Byte) : State := { s with strlen := x }
def State.setKey (s : State) (x : Block) : State := { s with key := x }
def State.setMsg (s : State) (x : MsgBuffer) : State := { s with msg := x }
def State.setMsglen (s : State) (x : Byte) : State := { s with msglen := x }
def State.setBlkin (s : State) (x : Block) : State := { s with blkin := x }
def State.setBlkout (s : State) (x : Block) : State := { s with blkout := x }
def State.setTag (s : State) (x : Block) : State := { s with tag := x }
def State.setAddr (s : State) (x : DeviceAddress) : State := { s with addr := x }
def State.setStatus (s : State) (x : Byte) : State := { s with status := x }
def State.setPending (s : State) (x : List Transaction) : State := { s with pending := x }
def State.setReplies (s : State) (x : List Byte) : State := { s with replies := x }

/-! ### The end of a command -/

/-- A command that completes without error ends by writing `STATUS <- 0x01` (spec/10_state.md R33). -/
def complete (s : State) : Host.Outcome State Fault Refusal := .next (s.setStatus statusOk)

/-- `raise E`: the command ends, `STATUS` records the error code, and no other register is written
(spec/60_exceptions.md R153). -/
def raise (e : Err) (s : State) : Host.Outcome State Fault Refusal := .next (s.setStatus (statusOfErr e))

/-- One outcome after another: the second runs from the first's next state. -/
def andThen (o : Host.Outcome State Fault Refusal) (f : State → Host.Outcome State Fault Refusal) :
    Host.Outcome State Fault Refusal :=
  match o with
  | .next s => f s
  | .fault r => .fault r
  | .refused r => .refused r

/-! ### The register window -/

/-- What stands at an address of the window: the command register, a byte of a register, or nothing (spec/20_memory.md
R43). -/
inductive Loc
  | cmd
  | status
  | strlen
  | msglen
  | key (i : Fin 16)
  | blkin (i : Fin 16)
  | blkout (i : Fin 16)
  | tag (i : Fin 16)
  | addr (i : Fin 6)
  | str (i : Fin 36)
  | msg (i : Fin 64)
  | reserved
  deriving DecidableEq, Repr

/-- The access a host has (R43). -/
inductive Access
  /-- Read and write. -/
  | rw
  /-- Read only: a write is ignored (R44). -/
  | ro
  /-- Write only: a read returns zero (R41). -/
  | wo
  /-- Reserved: a read returns zero and a write is ignored (R45). -/
  | reserved
  deriving DecidableEq, Repr

/-- The address map of R43, row by row. -/
def locate (a : Byte) : Loc :=
  if a.toNat = 0x00 then .cmd
  else if a.toNat = 0x01 then .status
  else if a.toNat = 0x02 then .strlen
  else if a.toNat = 0x03 then .msglen
  else if a.toNat ≤ 0x0F then .reserved
  else if _h : a.toNat ≤ 0x1F then .key ⟨a.toNat - 0x10, by omega⟩
  else if _h : a.toNat ≤ 0x2F then .blkin ⟨a.toNat - 0x20, by omega⟩
  else if _h : a.toNat ≤ 0x3F then .blkout ⟨a.toNat - 0x30, by omega⟩
  else if _h : a.toNat ≤ 0x4F then .tag ⟨a.toNat - 0x40, by omega⟩
  else if _h : a.toNat ≤ 0x55 then .addr ⟨a.toNat - 0x50, by omega⟩
  else if a.toNat ≤ 0x5F then .reserved
  else if _h : a.toNat ≤ 0x83 then .str ⟨a.toNat - 0x60, by omega⟩
  else if a.toNat ≤ 0x8F then .reserved
  else if _h : a.toNat ≤ 0xCF then .msg ⟨a.toNat - 0x90, by omega⟩
  else .reserved

/-- The access column of R43. -/
def Loc.access : Loc → Access
  | .cmd => .wo
  | .status => .ro
  | .strlen => .rw
  | .msglen => .rw
  | .key _ => .rw
  | .blkin _ => .rw
  | .blkout _ => .ro
  | .tag _ => .rw
  | .addr _ => .ro
  | .str _ => .rw
  | .msg _ => .rw
  | .reserved => .reserved

/-- The byte that stands at a location; `CMD` and reserved addresses hold nothing and read as zero (R34, R41, R45). -/
def loadByte (l : Loc) (s : State) : Byte :=
  match l with
  | .cmd => 0
  | .status => s.status
  | .strlen => s.strlen
  | .msglen => s.msglen
  | .key i => s.key[i]
  | .blkin i => s.blkin[i]
  | .blkout i => s.blkout[i]
  | .tag i => s.tag[i]
  | .addr i => s.addr[i]
  | .str i => s.str[i]
  | .msg i => s.msg[i]
  | .reserved => 0

/-- Put a byte at a location, whatever access the host has there (`hostWrite` checks that). -/
def storeByte (l : Loc) (v : Byte) (s : State) : State :=
  match l with
  | .cmd => s
  | .status => s.setStatus v
  | .strlen => s.setStrlen v
  | .msglen => s.setMsglen v
  | .key i => s.setKey (s.key.set i v)
  | .blkin i => s.setBlkin (s.blkin.set i v)
  | .blkout i => s.setBlkout (s.blkout.set i v)
  | .tag i => s.setTag (s.tag.set i v)
  | .addr i => s.setAddr (s.addr.set i v)
  | .str i => s.setStr (s.str.set i v)
  | .msg i => s.setMsg (s.msg.set i v)
  | .reserved => s

/-- `MemRead(a, 1)`: the byte a `Read(a)` returns (R41). -/
def hostRead (a : Byte) (s : State) : Byte := loadByte (locate a) s

/-- `MemWrite(a, 1, v)` at an address other than `CMD`: a read/write byte is set, and a write to a read-only or reserved
address changes nothing (R42, R44, R45). -/
def hostWrite (a v : Byte) (s : State) : State :=
  match (locate a).access with
  | .rw => storeByte (locate a) v s
  | .ro => s
  | .wo => s
  | .reserved => s

/-! ### Reset -/

/-- `Reset`: every register takes its reset value (spec/70_reset_and_hazards.md R170, spec/10_state.md R37). The host's
side of the interface is not part of the block and stays (notes/assumptions/1.md). -/
def resetBlock (s : State) : State := (State.reset.setPending s.pending).setReplies s.replies

end Sys2Proof.Machine
end

