-- ==== Sys2Proof/Machine/Operands.lean ====
section
/-! DEFINITION. The operands of the commands. Every operand is implicit (spec/30_encoding.md R62): a whole register, or the
part of `MSG` that `MSGLEN` selects, or the first six bytes of `TAG`. -/

namespace Sys2Proof.Machine

/-- `MSG[0 .. MSGLEN-1]`, the message of `CMAC` (spec/10_state.md R24; spec/42_cmac.md R117). Meaningful when
`MSGLEN <= 64`, which `CMAC` checks first (R124). -/
def messageOperand (s : State) : List Byte := s.msg.toList.take s.msglen.toNat

/-- `MSGLEN` is longer than the buffer: the unsigned comparison `zext(MSGLEN) > 64` (spec/42_cmac.md R124). -/
def messageTooLong (s : State) : Bool := decide (s.msglen.toNat > Config.msgMax)

end Sys2Proof.Machine
end

