-- ==== Sys2Proof/Machine/Cmac.lean ====
section
/-! DEFINITION. The CMAC construction and the `CMAC` command (spec/42_cmac.md). The construction generates tags only: no
verification, no truncation, no resuming (R126). -/

namespace Sys2Proof.Machine

/-- `dbl(B)`: every byte shifted left by one with the top bit of the next byte shifted in, and `RB` into the last byte
when the bit shifted out of byte 0 was 1 (R115). -/
def dbl (b : Block) : Block :=
  Vector.ofFn fun i =>
    if h : i.val < 15 then (b[i] <<< 1) ||| (b[i.val + 1] >>> 7)
    else if b[0].getLsbD 7 then (b[15] <<< 1) ^^^ Config.rb else b[15] <<< 1

/-- `L = AES(K, 0^16)` (R116). -/
def subkeyL (k : Block) : Block := aes k zeroBlock

/-- `K1 = dbl(L)` (R116). -/
def subkey1 (k : Block) : Block := dbl (subkeyL k)

/-- `K2 = dbl(K1)` (R116). -/
def subkey2 (k : Block) : Block := dbl (subkey1 k)

/-- `n`: one block for the empty message, `ceil(len / 16)` otherwise (R118). -/
def blockCount (len : Nat) : Nat := if len = 0 then 1 else (len + 15) / 16

/-- `M_(i+1) = M[16*i .. 16*i+15]` (R118). -/
def messageBlock (m : List Byte) (i : Nat) : List Byte := (m.drop (16 * i)).take 16

/-- The whole blocks `M_1 .. M_(n-1)` (R118). -/
def wholeBlocks (m : List Byte) : List Block :=
  (List.range (blockCount m.length - 1)).map fun i => blockOfList (messageBlock m i)

/-- `M_n`, the last block, of 0 to 16 bytes (R118). -/
def lastBlock (m : List Byte) : List Byte := m.drop (16 * (blockCount m.length - 1))

/-- `pad(M_n) = M_n ‖ 80 ‖ 0^(15-r)` (R119). -/
def padBlock (m : List Byte) : Block := blockOfList (m ++ [0x80])

/-- `M_last`: a complete last block is masked with `K1`, an incomplete one is padded and masked with `K2` (R118, R120). -/
def maskedLast (k : Block) (m : List Byte) : Block :=
  if (lastBlock m).length = 16 then xorBlock (blockOfList (lastBlock m)) (subkey1 k)
  else xorBlock (padBlock (lastBlock m)) (subkey2 k)

/-- The chaining value `X` after the whole blocks (R121). -/
def chainValue (k : Block) (ms : List Block) : Block := ms.foldl (fun x m => aes k (xorBlock x m)) zeroBlock

/-- `CMAC(K, M)` (R121). -/
def cmac (k : Block) (m : List Byte) : Block := aes k (xorBlock (chainValue k (wholeBlocks m)) (maskedLast k m))

/-- `CMAC` (R124). -/
def execCmac (s : State) : Host.Outcome State Fault Refusal :=
  if messageTooLong s then raise .badLength s else complete (s.setTag (cmac s.key (messageOperand s)))

end Sys2Proof.Machine
end

