-- ==== Sys2Proof/Machine/EcbEnc.lean ====
section
/-! DEFINITION. The `ECBENC` command (spec/41_aes_ecb.md R105). -/

namespace Sys2Proof.Machine

/-- `ECBENC` (R105). -/
def execEcbenc (s : State) : Host.Outcome State Fault Refusal := complete (s.setBlkout (aes s.key s.blkin))

end Sys2Proof.Machine
end

