-- ==== Sys2Proof/Machine/Uuid.lean ====
section
/-! DEFINITION. The UUID parser and the `PARSE` command (spec/40_uuid_parse.md). -/

namespace Sys2Proof.Machine

/-- The hyphen-minus, the only separator (R78). -/
def hyphen : Byte := 0x2D

/-- The positions that hold a hyphen (R76). -/
def hyphenPositions : List (Fin 36) := [8, 13, 18, 23]

/-- The other 32 positions, which hold a hexadecimal digit (R76). -/
def digitPositions : List (Fin 36) := (List.finRange 36).filter fun p => !hyphenPositions.contains p

/-- `g(i)`: the number of hyphens to the left of the digits of key byte `i` (R76). -/
def hyphensLeftOf (i : Nat) : Nat :=
  if i ≤ 3 then 0 else if i ≤ 5 then 1 else if i ≤ 7 then 2 else if i ≤ 9 then 3 else 4

/-- `hi(i) = 2*i + g(i)`: the position of the high digit of key byte `i` (R76). -/
def highDigitPos (i : Nat) : Nat := 2 * i + hyphensLeftOf i

/-- Both digits of a key byte stand inside the text (R76). -/
theorem highDigitPos_lt (i : Fin 16) : highDigitPos i + 1 < 36 := by
  revert i; decide

/-- `c` is a hexadecimal digit: one of the three ranges of R77. -/
def isHexDigit (c : Byte) : Bool :=
  (0x30 ≤ c && c ≤ 0x39) || (0x61 ≤ c && c ≤ 0x66) || (0x41 ≤ c && c ≤ 0x46)

/-- `hexval(c)` for a hexadecimal digit `c` (R77). -/
def hexVal (c : Byte) : Byte :=
  if 0x30 ≤ c && c ≤ 0x39 then c - 0x30
  else if 0x61 ≤ c && c ≤ 0x66 then c - 0x61 + 10
  else c - 0x41 + 10

/-- Every separator position holds a hyphen (R79, second test). -/
def separatorsOk (s : UuidText) : Bool := hyphenPositions.all fun p => s[p] == hyphen

/-- Every other position holds a hexadecimal digit (R79, third test). -/
def digitsOk (s : UuidText) : Bool := digitPositions.all fun p => isHexDigit s[p]

/-- Key byte `i`: the first digit of its pair is the high nibble (R79). -/
def uuidByte (s : UuidText) (i : Fin 16) : Byte :=
  16 * hexVal (s[highDigitPos i]'(by have := highDigitPos_lt i; omega))
    + hexVal (s[highDigitPos i + 1]'(highDigitPos_lt i))

/-- `ParseUUID(len, s)` of R79: `some k` for `Ok(k)`, `none` for `ParseError`. The text is not looked at when the length
is wrong. -/
def parseUuid (len : Byte) (s : UuidText) : Option Block :=
  if len.toNat ≠ Config.strBytes then none
  else if !separatorsOk s then none
  else if !digitsOk s then none
  else some (Vector.ofFn (uuidByte s))

/-- `PARSE` (R80). -/
def execParse (s : State) : Host.Outcome State Fault Refusal :=
  match parseUuid s.strlen s.str with
  | some k => complete (s.setKey k)
  | none => raise .parseError s

end Sys2Proof.Machine
end

