-- ==== Sys2Proof/Machine/ExtractDerive.lean ====
section
/-! DEFINITION. The 6-byte extraction, the whole derivation, and the commands `EXTRACT` and `DERIVE`
(spec/43_extract_derive.md). -/

namespace Sys2Proof.Machine

/-- Step 3: `F = T[0..5]` (R130). -/
def firstSix (t : Block) : DeviceAddress := Vector.ofFn fun i => t[i.val]

/-- Step 4: the order of the six bytes is reversed, the bits of each byte are not (R131). -/
def reverseSix (f : DeviceAddress) : DeviceAddress := Vector.ofFn fun i => f[5 - i.val]

/-- Step 5: the mask on the first byte of the reversed sequence only (R132). -/
def maskFirst (r : DeviceAddress) : DeviceAddress := r.set 0 (r[0] ||| Config.mask)

/-- `Extract(T)`, steps 3 to 6 (R133, R134). -/
def extractAddress (t : Block) : DeviceAddress := maskFirst (reverseSix (firstSix t))

/-- `EXTRACT` (R135). -/
def execExtract (s : State) : Host.Outcome State Fault Refusal := complete (s.setAddr (extractAddress s.tag))

/-- `Derive(len, s)`: `some (k, T, A)` for `Ok(k, T, A)`, `none` for `ParseError` (R138). -/
def deriveAll (len : Byte) (s : UuidText) : Option (Block × Block × DeviceAddress) :=
  match parseUuid len s with
  | none => none
  | some k => some (k, cmac k Config.label, extractAddress (cmac k Config.label))

/-- `DERIVE` (R139). -/
def execDerive (s : State) : Host.Outcome State Fault Refusal :=
  match deriveAll s.strlen s.str with
  | some (k, t, a) => complete (((s.setKey k).setTag t).setAddr a)
  | none => raise .parseError s

end Sys2Proof.Machine
end

