-- ==== Sys2Proof/Machine/SystemClear.lean ====
section
/-! DEFINITION. The system command `CLEAR` (spec/44_system.md R146). There is no other system command (R147). -/

namespace Sys2Proof.Machine

/-- Every data and length register is zeroed (R146). -/
def zeroRegisters (s : State) : State :=
  { s with
    str := Vector.replicate 36 0, strlen := 0, key := Vector.replicate 16 0, msg := Vector.replicate 64 0, msglen := 0,
    blkin := Vector.replicate 16 0, blkout := Vector.replicate 16 0, tag := Vector.replicate 16 0,
    addr := Vector.replicate 6 0 }

/-- `CLEAR` (R146). -/
def execClear (s : State) : Host.Outcome State Fault Refusal := complete (zeroRegisters s)

end Sys2Proof.Machine
end

