-- ==== Sys2Proof/Machine/Dispatch.lean ====
section
/-! DEFINITION. One arm per command, each one call of its meaning (spec/30_encoding.md R61). -/

namespace Sys2Proof.Machine

def exec (i : Instr) (s : State) : Host.Outcome State Fault Refusal :=
  match i with
  | .parse => Sys2Proof.Machine.execParse s
  | .ecbenc => Sys2Proof.Machine.execEcbenc s
  | .cmac => Sys2Proof.Machine.execCmac s
  | .extract => Sys2Proof.Machine.execExtract s
  | .derive => Sys2Proof.Machine.execDerive s
  | .clear => Sys2Proof.Machine.execClear s

end Sys2Proof.Machine
end

