-- ==== Sys2Proof/Machine/Transact.lean ====
section
/-! DEFINITION. What one transaction of the host does, and a sequence of them (spec/20_memory.md R40 to R42). -/

namespace Sys2Proof.Machine

/-- `Write(CMD, v)`: decode and run the command `v`, or raise `IllegalCommand(v)` at decode (spec/30_encoding.md R60, R63,
R67; spec/60_exceptions.md R152). -/
def runCommand (v : Byte) (s : State) : Host.Outcome State Fault Refusal :=
  match decode v with
  | .ok i => exec i s
  | .error (.illegal w) => raise (.illegalCommand w) s

/-- `Read(a)`: the byte goes to the host, no register changes (R41). -/
def readTransaction (a : Byte) (s : State) : State := s.setReplies (s.replies ++ [hostRead a s])

/-- One transaction, complete before the next begins (R40, R49). -/
def transact (t : Transaction) (s : State) : Host.Outcome State Fault Refusal :=
  match t with
  | .read a => .next (readTransaction a s)
  -- Address `0x00` is `CMD` (R42, R43).
  | .write a v => if a = 0x00 then runCommand v s else .next (hostWrite a v s)
  | .reset => .next (resetBlock s)

/-- A sequence of transactions: "the fold of the step function over it" (R40). -/
def transactAll : List Transaction → State → Host.Outcome State Fault Refusal
  | [], s => .next s
  | t :: ts, s => andThen (transact t s) (transactAll ts)

/-- The block takes the oldest pending transaction; without one it does nothing: "The block does nothing between
transactions and starts nothing on its own" (R40). -/
def takeTransaction (s : State) : Host.Outcome State Fault Refusal :=
  match s.pending with
  | [] => .next s
  | t :: ts => transact t (s.setPending ts)

end Sys2Proof.Machine
end

