-- ==== Sys2Proof/Machine/Step.lean ====
section
/-! DEFINITION. The step: the block takes the oldest pending transaction of the host and completes it (spec/20_memory.md
R40). The block fetches no instructions (spec/10_state.md R31); a command reaches it as the data byte of a write to
`CMD`, and that is where `withFetchWord` puts one (notes/assumptions/2.md). -/

namespace Sys2Proof.Machine

/-- One step of the machine. -/
def step (s : State) : Host.Outcome State Fault Refusal := takeTransaction s

/-- The state whose next step is the command of bits `w`: a `Write(CMD, w)` stands before every pending transaction. A
command is one byte (spec/30_encoding.md R60), so its bits are the low eight of `w` whatever `nbits` says. -/
def State.withFetchWord (s : State) (_nbits w : Nat) : State :=
  s.setPending (.write 0x00 (BitVec.ofNat 8 w) :: s.pending)

end Sys2Proof.Machine
end

