-- ==== Sys2Proof/Machine/CipherCalls.lean ====
section
/-! DEFINITION. The forward-cipher evaluations that a command's definition contains, in order
(spec/70_reset_and_hazards.md R175). The spec gives the counts for information; no rule depends on time and the model has
no clock, so no meaning reads them (notes/assumptions/9.md). -/

namespace Sys2Proof.Machine

/-- One evaluation of the forward cipher: the key and the block it is applied to (R175; spec/41_aes_ecb.md R103). -/
structure CipherCall where
  key : Block
  input : Block
  deriving DecidableEq, Repr

/-- What the evaluation gives: `AES(key, input)` (R103). -/
def CipherCall.output (c : CipherCall) : Block := aes c.key c.input

/-- The blocks enciphered along the CMAC chain from the value `x` on: one per whole block, then the masked last block
(spec/42_cmac.md R121). -/
def chainInputs (k x : Block) (last : Block) : List Block → List Block
  | [] => [xorBlock x last]
  | m :: ms => xorBlock x m :: chainInputs k (aes k (xorBlock x m)) last ms

/-- The evaluations of `CMAC(K, M)`: the zero block for the subkeys, then the chain (R116, R121). -/
def cmacCalls (k : Block) (m : List Byte) : List CipherCall :=
  (zeroBlock :: chainInputs k zeroBlock (maskedLast k m) (wholeBlocks m)).map (CipherCall.mk k)

/-- The evaluations of a command in a state (R175). -/
def commandCipherCalls (i : Instr) (s : State) : List CipherCall :=
  match i with
  | .parse => []
  | .ecbenc => [⟨s.key, s.blkin⟩]
  | .cmac => if messageTooLong s then [] else cmacCalls s.key (messageOperand s)
  | .extract => []
  | .derive =>
    match parseUuid s.strlen s.str with
    | some k => cmacCalls k Config.label
    | none => []
  | .clear => []

end Sys2Proof.Machine
end

