-- ==== Sys2Proof/Machine/Instances.lean ====
section
/-! DEFINITION. A system of `N_INSTANCES` copies of the block: "the product of n independent copies of the
single-instance model" (spec/60_exceptions.md R163). `n` is the spec's open parameter (spec/00_scope.md R7); nothing here
depends on its value. -/

namespace Sys2Proof.Machine

/-- A system of `n` instances, each with its own complete state. -/
abbrev System (n : Nat) := Vector State n

/-- The outcome for the whole system when instance `i` has had outcome `o`. -/
def liftOutcome {n : Nat} (sys : System n) (i : Fin n) (o : Host.Outcome State Fault Refusal) :
    Host.Outcome (System n) Fault Refusal :=
  match o with
  | .next t => .next (sys.set i t)
  | .fault r => .fault r
  | .refused r => .refused r

/-- A transaction on instance `i`: "A transaction on one instance has no effect on any other" (R163). -/
def transactOn {n : Nat} (i : Fin n) (t : Transaction) (sys : System n) : Host.Outcome (System n) Fault Refusal :=
  liftOutcome sys i (transact t sys[i])

/-- An interleaving of the hosts' transactions: which instance, which transaction (R163). -/
abbrev Schedule (n : Nat) := List (Fin n × Transaction)

/-- Run an interleaving. -/
def runSchedule {n : Nat} : Schedule n → System n → Host.Outcome (System n) Fault Refusal
  | [], sys => .next sys
  | (i, t) :: rest, sys =>
    match transactOn i t sys with
    | .next sys' => runSchedule rest sys'
    | .fault r => .fault r
    | .refused r => .refused r

/-- The transactions of one instance in an interleaving, in order (R163). -/
def ownTransactions {n : Nat} (i : Fin n) (sched : Schedule n) : List Transaction :=
  (sched.filter fun e => e.1 == i).map (·.2)

end Sys2Proof.Machine
end

