-- ==== Sys2Proof/Machine/Script.lean ====
section
/-! DEFINITION. Scripts: the transactions each line stands for (spec/30_encoding.md R65, R66), running a script with its
`expect` lines, and the document's library call as a script (R71). All of this is the host's side; the block sees
transactions only. -/

namespace Sys2Proof.Machine

/-- The address of the first byte of a buffer (spec/20_memory.md R43). -/
def bufferBase : Buffer → Nat
  | .key => 0x10
  | .blkin => 0x20
  | .blkout => 0x30
  | .tag => 0x40
  | .addr => 0x50
  | .str => 0x60
  | .msg => 0x90

/-- `addr(reg)`: the address a register operand stands for, `base + i` for byte `i` of a buffer (R43, R65). -/
def regAddress : RegRef → Nat
  | .address a => a.toNat
  | .cmd => 0x00
  | .status => 0x01
  | .strlen => 0x02
  | .msglen => 0x03
  | .buffer b offset => bufferBase b + offset

/-- Writes of the bytes `bs` to consecutive addresses from `base` on, ascending (R66). -/
def writesFrom (base : Nat) : List Byte → List Transaction
  | [] => []
  | b :: bs => .write (BitVec.ofNat 8 base) b :: writesFrom (base + 1) bs

/-- Reads of `n` consecutive addresses from `base` on, ascending (R66). -/
def readsFrom (base : Nat) : Nat → List Transaction
  | 0 => []
  | n + 1 => .read (BitVec.ofNat 8 base) :: readsFrom (base + 1) n

/-- `cmd <MNEMONIC>`: a write of the opcode to `CMD` (R65). -/
def commandWrite (i : Instr) : Transaction := .write 0x00 (encode i)

/-- The transactions of a line (R65, R66). -/
def lineTransactions : ScriptLine → List Transaction
  | .wr r v => [.write (BitVec.ofNat 8 (regAddress r)) v]
  | .rd r => [.read (BitVec.ofNat 8 (regAddress r))]
  | .cmd i => [commandWrite i]
  | .reset => [.reset]
  | .ldkey h => writesFrom (bufferBase .key) h
  | .ldblk h => writesFrom (bufferBase .blkin) h
  | .ldtag h => writesFrom (bufferBase .tag) h
  | .ldmsg h =>
    writesFrom (bufferBase .msg) h ++ [.write (BitVec.ofNat 8 (regAddress .msglen)) (BitVec.ofNat 8 h.length)]
  | .ldstr text =>
    writesFrom (bufferBase .str) (text.take Config.strBytes) ++
      [.write (BitVec.ofNat 8 (regAddress .strlen)) (BitVec.ofNat 8 (min text.length 255))]
  | .expect r h => readsFrom (regAddress r) h.length

/-- The transactions of a script, in order (R65). -/
def scriptTransactions (ls : List ScriptLine) : List Transaction := ls.flatMap lineTransactions

/-- The transaction words of a script; a `Reset` has none (R64, R65). -/
def scriptWords (ls : List ScriptLine) : List (BitVec 17) := (scriptTransactions ls).filterMap encodeTransaction

/-- A line holds of the bytes its reads returned: "the script fails if a byte read differs" (R66, `expect`). -/
def lineHolds (l : ScriptLine) (read : List Byte) : Bool :=
  match l with
  | .expect _ h => read == h
  | .wr _ _ => true
  | .rd _ => true
  | .cmd _ => true
  | .reset => true
  | .ldkey _ => true
  | .ldblk _ => true
  | .ldtag _ => true
  | .ldmsg _ => true
  | .ldstr _ => true

/-- Run a script line by line; `true` when every `expect` line holds (R66). -/
def scriptPasses : List ScriptLine → State → Bool
  | [], _ => true
  | l :: ls, s =>
    match transactAll (lineTransactions l) s with
    | .next t => lineHolds l (t.replies.drop s.replies.length) && scriptPasses ls t
    | .fault _ => false
    | .refused _ => false

/-! ### The library call `derive(s)` -/

/-- The transactions of `derive(s)`: load the string, derive, read `STATUS`, read the six bytes of `ADDR` (R71). The host
looks at the six bytes only when `STATUS` is `0x01`. -/
def deriveCall (text : List Byte) : List Transaction :=
  lineTransactions (.ldstr text) ++ [commandWrite .derive] ++ lineTransactions (.rd .status) ++
    readsFrom (bufferBase .addr) Config.addrBytes

/-- The result of the library call. -/
inductive CallResult
  | address (a : List Byte)
  | parseError
  /-- A `STATUS` other than `0x01` and `0x12`; R71 says none can be read. -/
  | unexpected
  deriving DecidableEq, Repr

/-- What the host makes of the seven bytes it read: `STATUS`, then `ADDR` (R71). -/
def callResult : List Byte → CallResult
  | [] => .unexpected
  | status :: rest => if status = 0x01 then .address rest else if status = 0x12 then .parseError else .unexpected

/-- `derive(s)` run on the block (R71). -/
def runDeriveCall (text : List Byte) (s : State) : CallResult :=
  match transactAll (deriveCall text) s with
  | .next t => callResult (t.replies.drop s.replies.length)
  | .fault _ => .unexpected
  | .refused _ => .unexpected

/-! ### Display -/

/-- The lower-case hex digit of a value 0..15 (spec/43_extract_derive.md R145). -/
def hexDigitOf (v : Byte) : Byte := if v < 10 then v + 0x30 else v - 10 + 0x61

/-- The two lower-case hex digits of a byte, high nibble first (R145). -/
def hexPair (b : Byte) : List Byte := [hexDigitOf (b >>> 4), hexDigitOf (b &&& 0x0F)]

/-- The separator of the display form (R145). -/
def colon : Byte := 0x3A

/-- `FormatAddr(A)`: lower-case hex pairs joined by colons, `A[0]` leftmost (R145). The host's, not the block's. -/
def formatAddr (a : DeviceAddress) : List Byte :=
  hexPair a[0] ++ [colon] ++ hexPair a[1] ++ [colon] ++ hexPair a[2] ++ [colon] ++ hexPair a[3] ++ [colon] ++
    hexPair a[4] ++ [colon] ++ hexPair a[5]

end Sys2Proof.Machine
end

