-- ==== Sys2Proof/Safety.lean ====
section
/-! DEFINITION. What a safe state and a safe run are.

The block cannot stop (spec/70_reset_and_hazards.md R174), so safety is about what a host can see: `STATUS` never leaves
its five values (spec/10_state.md R33), and a filled address register always has its two top bits set (R29). -/

namespace Sys2Proof.Machine

/-- `ADDR` holds its reset value, or a derived address whose two highest bits are set (spec/10_state.md R29;
spec/00_scope.md R12, "Top-bits invariant"). -/
def addrWellFormed (a : DeviceAddress) : Bool := a == Vector.replicate 6 0 || a[0] &&& Config.mask == Config.mask

/-- The invariant of the block. -/
structure State.Inv (s : State) : Prop where
  /-- `STATUS` takes exactly five values (R33). -/
  status_legal : legalStatus s.status = true
  /-- `ADDR` is either unfilled or a well-formed address (R29). -/
  addr_wf : addrWellFormed s.addr = true

/-- A step is safe when the machine goes on. -/
def stepGoesOn (s : State) : Prop := ∃ t, step s = .next t

/-- Every state of a run of at most `n` steps from `s` meets the invariant and goes on. -/
def SafeRun : Nat → State → Prop
  | 0, s => s.Inv
  | n + 1, s => s.Inv ∧ ∃ t, step s = .next t ∧ SafeRun n t

end Sys2Proof.Machine
end

