-- ==== Sys2Proof/Certificates/Slice0/Obligations.lean ====
section
/-! DEFINITION. The statements about the block, in the order of the spec's files: encodings, transactions and the window,
state and status, the parser, the cipher, CMAC, extraction and derivation, CLEAR, errors, reset, whole-machine rules. -/

open Sys2Proof Sys2Proof.Machine

/-! ### Encodings (spec/30_encoding.md) -/

/-- The decoder and the encoder agree on every command and on every byte, and the bytes rejected are exactly those that are
no command's opcode (R61, R63). -/
def Obligations.DecodeAndEncodeAgree : Prop :=
  (∀ i : Instr, i.wf = true → decode (encode i) = .ok i) ∧ (∀ (v : Byte) (i : Instr), decode v = .ok i → encode i = v) ∧
  (∀ v : Byte, decode v = .error (.illegal v) ↔ ∀ i : Instr, encode i ≠ v)

/-- R63: the six words of the opcode table, bit by bit from its `encoding` column, decode to their commands, and every other
byte is illegal. -/
def Obligations.TableWordsDecode : Prop :=
  decode 0b00000001 = .ok .parse ∧ decode 0b00000010 = .ok .ecbenc ∧ decode 0b00000011 = .ok .cmac ∧
  decode 0b00000100 = .ok .extract ∧ decode 0b00000101 = .ok .derive ∧ decode 0b00000110 = .ok .clear ∧
  (∀ v : Byte, v = 0x00 ∨ 0x07 ≤ v.toNat → decode v = .error (.illegal v))

/-- R64: the fields of a transaction word, the word of every transaction but `Reset`, and what a word denotes; a `Read`
word with non-zero data denotes the same read. -/
def Obligations.TransactionWordFormat : Prop :=
  (∀ a v : Byte, ∃ w, encodeTransaction (.write a v) = some w ∧ w.toNat = 0x10000 + 0x100 * a.toNat + v.toNat ∧
    decodeTransaction w = .write a v) ∧
  (∀ a : Byte, ∃ w, encodeTransaction (.read a) = some w ∧ w.toNat = 0x100 * a.toNat ∧ decodeTransaction w = .read a) ∧
  encodeTransaction .reset = none ∧
  (∀ (w : BitVec 17) (a d : Byte), w.toNat = 0x100 * a.toNat + d.toNat → decodeTransaction w = .read a)

/-- Every canonical transaction word is the word of the transaction it denotes: no bit of the encoding is dropped (R64). -/
def Obligations.TransactionWordsRoundTrip : Prop :=
  (∀ (t : Transaction) (w : BitVec 17), encodeTransaction t = some w → decodeTransaction w = t ∧ wordCanonical w = true) ∧
  (∀ w : BitVec 17, wordCanonical w = true → encodeTransaction (decodeTransaction w) = some w)

/-- A script without `reset` lines and its transaction words say the same (R64, R65, R66). -/
def Obligations.ScriptWordsDenoteTheScript : Prop :=
  ∀ ls : List ScriptLine, ScriptLine.reset ∉ ls →
    (scriptWords ls).map decodeTransaction = scriptTransactions ls

/-! ### Transactions and the register window (spec/20_memory.md) -/

/-- R40: "The block does nothing between transactions and starts nothing on its own". -/
def Obligations.StepIdlesWithoutTransaction : Prop :=
  ∀ s : State, s.pending = [] → step s = .next s

/-- R60: a write of an opcode to `CMD` runs that command, on the state whose pending list has lost the transaction. -/
def Obligations.StepRunsTheDecodedCommand : Prop :=
  ∀ (s : State) (v : Byte) (rest : List Transaction) (i : Instr),
    s.pending = .write 0x00 v :: rest → decode v = .ok i → step s = exec i { s with pending := rest }

/-- R67: every byte that is no opcode raises `IllegalCommand`: `STATUS <- 0x22` and nothing else changes. -/
def Obligations.IllegalOpcodeWritesStatusOnly : Prop :=
  ∀ (s : State) (v : Byte) (rest : List Transaction),
    s.pending = .write 0x00 v :: rest → (v = 0x00 ∨ 0x07 ≤ v.toNat) →
      step s = .next { s with pending := rest, status := 0x22 }

/-- R41: a read returns the byte of the window and changes no register. -/
def Obligations.ReadReturnsTheByteAndChangesNothing : Prop :=
  ∀ (s : State) (a : Byte) (rest : List Transaction),
    s.pending = .read a :: rest →
      step s = .next { s with pending := rest, replies := s.replies ++ [hostRead a s] }

/-- The addresses with access RW in the map of R43. -/
abbrev Sys2Proof.Machine.readWriteAddress (a : Byte) : Prop :=
  a.toNat = 0x02 ∨ a.toNat = 0x03 ∨ (0x10 ≤ a.toNat ∧ a.toNat ≤ 0x2F) ∨ (0x40 ≤ a.toNat ∧ a.toNat ≤ 0x4F) ∨
    (0x60 ≤ a.toNat ∧ a.toNat ≤ 0x83) ∨ (0x90 ≤ a.toNat ∧ a.toNat ≤ 0xCF)

/-- The reserved addresses of R43 and R45. -/
abbrev Sys2Proof.Machine.reservedAddress (a : Byte) : Prop :=
  (0x04 ≤ a.toNat ∧ a.toNat ≤ 0x0F) ∨ (0x56 ≤ a.toNat ∧ a.toNat ≤ 0x5F) ∨ (0x84 ≤ a.toNat ∧ a.toNat ≤ 0x8F) ∨
    0xD0 ≤ a.toNat

/-- R43: the register at each of the 256 addresses, the access column and the reset column. -/
def Obligations.WindowFollowsTheAddressMap : Prop :=
  (∀ s : State,
    hostRead 0x00 s = 0 ∧ hostRead 0x01 s = s.status ∧ hostRead 0x02 s = s.strlen ∧ hostRead 0x03 s = s.msglen ∧
    (∀ i : Fin 16, hostRead (BitVec.ofNat 8 (0x10 + i)) s = s.key[i]) ∧
    (∀ i : Fin 16, hostRead (BitVec.ofNat 8 (0x20 + i)) s = s.blkin[i]) ∧
    (∀ i : Fin 16, hostRead (BitVec.ofNat 8 (0x30 + i)) s = s.blkout[i]) ∧
    (∀ i : Fin 16, hostRead (BitVec.ofNat 8 (0x40 + i)) s = s.tag[i]) ∧
    (∀ i : Fin 6, hostRead (BitVec.ofNat 8 (0x50 + i)) s = s.addr[i]) ∧
    (∀ i : Fin 36, hostRead (BitVec.ofNat 8 (0x60 + i)) s = s.str[i]) ∧
    (∀ i : Fin 64, hostRead (BitVec.ofNat 8 (0x90 + i)) s = s.msg[i]) ∧
    (∀ a : Byte, reservedAddress a → hostRead a s = 0)) ∧
  (∀ a : Byte,
    ((locate a).access = .wo ↔ a.toNat = 0x00) ∧
    ((locate a).access = .rw ↔ readWriteAddress a) ∧
    ((locate a).access = .ro ↔ a.toNat = 0x01 ∨ (0x30 ≤ a.toNat ∧ a.toNat ≤ 0x3F) ∨ (0x50 ≤ a.toNat ∧ a.toNat ≤ 0x55)) ∧
    ((locate a).access = .reserved ↔ reservedAddress a)) ∧
  (∀ a : Byte, hostRead a State.reset = 0)

/-- R42: a data write to an RW address sets that byte and changes nothing else: every other address reads as before and
the host's side keeps the transactions after it. -/
def Obligations.DataWriteSetsExactlyOneByte : Prop :=
  ∀ (s : State) (a v : Byte) (rest : List Transaction),
    s.pending = .write a v :: rest → readWriteAddress a →
      ∃ t, step s = .next t ∧ hostRead a t = v ∧ (∀ b : Byte, b ≠ a → hostRead b t = hostRead b s) ∧
        t.pending = rest ∧ t.replies = s.replies

/-- R44, R45: a write to a read-only or reserved address changes nothing and reports nothing, `STATUS` included, and a
reserved address reads zero. -/
def Obligations.OtherWritesAreIgnored : Prop :=
  (∀ (s : State) (a v : Byte) (rest : List Transaction),
    s.pending = .write a v :: rest → a ≠ 0x00 → ¬ readWriteAddress a → step s = .next { s with pending := rest }) ∧
  (∀ (s : State) (a : Byte) (rest : List Transaction), s.pending = .read a :: rest → reservedAddress a →
    step s = .next { s with pending := rest, replies := s.replies ++ [0x00] })

/-- R49 (b): two data writes to different addresses commute. -/
def Obligations.DataWritesCommute : Prop :=
  ∀ (s : State) (a b v w : Byte), a ≠ b → hostWrite a v (hostWrite b w s) = hostWrite b w (hostWrite a v s)

/-- R49 (d): a transaction repeated at once changes no register again: a data write, a command (by any byte written to
`CMD`) and a reset. -/
def Obligations.RepeatedTransactionChangesNothing : Prop :=
  (∀ (s t : State) (a v : Byte), transact (.write a v) s = .next t → transact (.write a v) t = .next t) ∧
  (∀ s t : State, transact .reset s = .next t → transact .reset t = .next t) ∧
  (∀ (s t : State) (a : Byte), transact (.read a) s = .next t → hostRead a t = hostRead a s)

/-- R164: all state is visible to the host: two states that read the same at every address differ at most in the model's
own two fields. -/
def Obligations.WindowShowsEveryRegister : Prop :=
  ∀ s t : State, (∀ a : Byte, hostRead a s = hostRead a t) → t = { s with pending := t.pending, replies := t.replies }

/-- R40: the state after a sequence of transactions is the fold of the step function over it. -/
def Obligations.RunIsTheFoldOfTransactions : Prop :=
  ∀ s : State,
    Host.Core.run core s.pending.length s = transactAll s.pending { s with pending := [] }

/-! ### State and status (spec/10_state.md, spec/60_exceptions.md) -/

/-- R37: the reset state, register by register, and with it every address reads zero. -/
def Obligations.ResetStateIsAllZero : Prop :=
  (∀ i : Fin 36, State.reset.str[i] = 0) ∧ State.reset.strlen = 0 ∧ (∀ i : Fin 16, State.reset.key[i] = 0) ∧
  (∀ i : Fin 64, State.reset.msg[i] = 0) ∧ State.reset.msglen = 0 ∧ (∀ i : Fin 16, State.reset.blkin[i] = 0) ∧
  (∀ i : Fin 16, State.reset.blkout[i] = 0) ∧ (∀ i : Fin 16, State.reset.tag[i] = 0) ∧
  (∀ i : Fin 6, State.reset.addr[i] = 0) ∧ State.reset.status = 0 ∧ (∀ a : Byte, hostRead a State.reset = 0)

/-- R170: `Reset` gives every register its reset value, whatever the state; the model's own fields keep the host's side
(notes/assumptions/1.md). -/
def Obligations.ResetTransactionRestoresReset : Prop :=
  ∀ (s : State) (rest : List Transaction), s.pending = .reset :: rest →
    step s = .next { State.reset with pending := rest, replies := s.replies }

/-- R32, R33, R150: the value a command leaves for each outcome and its fields; among the five values `OK` and `ERR` are
never both 1, they are both 0 only in the reset value, and bits 3:2 read zero. -/
def Obligations.StatusValuesAndFields : Prop :=
  statusOk = 0x01 ∧ statusOfErr .parseError = 0x12 ∧ (∀ v, statusOfErr (.illegalCommand v) = 0x22) ∧
  statusOfErr .badLength = 0x32 ∧ okFlag statusOk = true ∧ errFlag statusOk = false ∧ errCode statusOk = 0 ∧
  (∀ e : Err, okFlag (statusOfErr e) = false ∧ errFlag (statusOfErr e) = true ∧ errCode (statusOfErr e) = e.code) ∧
  (∀ v : Byte, legalStatus v = true →
    ¬ (okFlag v = true ∧ errFlag v = true) ∧ (okFlag v = false ∧ errFlag v = false ↔ v = 0x00) ∧ v.extractLsb' 2 2 = 0)

/-- R153: raising an error writes `STATUS <- (code(E) << 4) | 0x02` and nothing else, and every command that ends with
`ERR = 1` has done exactly that. -/
def Obligations.ErrorReplacesStatusOnly : Prop :=
  (∀ (e : Err) (s : State), raise e s = .next { s with status := (e.code.setWidth 8 <<< 4) ||| 0x02 }) ∧
  (∀ (i : Instr) (s t : State), exec i s = .next t → errFlag t.status = true → ∃ e : Err, raise e s = .next t)

/-- R154: which `STATUS` each command can leave. -/
def Obligations.EachCommandHasItsOwnErrors : Prop :=
  ∀ s t : State,
    (exec .parse s = .next t → t.status = 0x01 ∨ t.status = 0x12) ∧
    (exec .derive s = .next t → t.status = 0x01 ∨ t.status = 0x12) ∧
    (exec .cmac s = .next t → t.status = 0x01 ∨ t.status = 0x32) ∧
    (exec .ecbenc s = .next t → t.status = 0x01) ∧ (exec .extract s = .next t → t.status = 0x01) ∧
    (exec .clear s = .next t → t.status = 0x01)

/-- R32, R155: `STATUS` is not sticky: what a command does does not depend on the outcome of the one before it. -/
def Obligations.StatusIsNotSticky : Prop :=
  ∀ (i : Instr) (s : State) (v : Byte), exec i { s with status := v } = exec i s

/-- The addresses whose byte a command may change (R30, column "writes when it succeeds"). -/
def Sys2Proof.Machine.commandMayWrite (i : Instr) (a : Byte) : Prop :=
  a.toNat = 0x01 ∨
  match i with
  | .parse => 0x10 ≤ a.toNat ∧ a.toNat ≤ 0x1F
  | .ecbenc => 0x30 ≤ a.toNat ∧ a.toNat ≤ 0x3F
  | .cmac => 0x40 ≤ a.toNat ∧ a.toNat ≤ 0x4F
  | .extract => 0x50 ≤ a.toNat ∧ a.toNat ≤ 0x55
  | .derive => (0x10 ≤ a.toNat ∧ a.toNat ≤ 0x1F) ∨ (0x40 ≤ a.toNat ∧ a.toNat ≤ 0x4F) ∨ (0x50 ≤ a.toNat ∧ a.toNat ≤ 0x55)
  | .clear => True

/-- The frame of every command: every byte of the window outside the registers R30 says it writes reads as before, and the
host's side is untouched. -/
def Obligations.CommandsWriteOnlyTheirRegisters : Prop :=
  ∀ (i : Instr) (s t : State), exec i s = .next t →
    (∀ a : Byte, ¬ commandMayWrite i a → hostRead a t = hostRead a s) ∧ t.pending = s.pending ∧ t.replies = s.replies

/-- What two states must share for a command to do the same in both (R30, column "reads"). -/
def Sys2Proof.Machine.sameOperands (i : Instr) (s t : State) : Prop :=
  match i with
  | .parse => s.strlen = t.strlen ∧ (s.strlen = 36 → s.str = t.str)
  | .ecbenc => s.key = t.key ∧ s.blkin = t.blkin
  | .cmac => s.msglen = t.msglen ∧
      (s.msglen.toNat ≤ 64 → s.key = t.key ∧ ∀ j : Fin 64, j.val < s.msglen.toNat → s.msg[j] = t.msg[j])
  | .extract => ∀ j : Fin 16, j.val ≤ 5 → s.tag[j] = t.tag[j]
  | .derive => s.strlen = t.strlen ∧ (s.strlen = 36 → s.str = t.str)
  | .clear => True

/-- R15, R30: a command reads nothing beyond its operands. In two states that share them it leaves the same `STATUS`, and
if that is success the same bytes in every register it writes. -/
def Obligations.CommandsDependOnTheirOperandsOnly : Prop :=
  ∀ (i : Instr) (s t s' t' : State), sameOperands i s t → exec i s = .next s' → exec i t = .next t' →
    s'.status = t'.status ∧
      (s'.status = 0x01 → ∀ a : Byte, commandMayWrite i a → hostRead a s' = hostRead a t')

/-! ### The parser and PARSE (spec/40_uuid_parse.md) -/

/-- `hexval` of R77, as a relation between a character and its value. -/
abbrev Sys2Proof.Machine.hexDigitValue (c : Byte) (v : Nat) : Prop :=
  (0x30 ≤ c.toNat ∧ c.toNat ≤ 0x39 ∧ v = c.toNat - 0x30) ∨ (0x61 ≤ c.toNat ∧ c.toNat ≤ 0x66 ∧ v = c.toNat - 0x61 + 10) ∨
    (0x41 ≤ c.toNat ∧ c.toNat ≤ 0x46 ∧ v = c.toNat - 0x41 + 10)

/-- The table of R76: the position of the high digit of each key byte. -/
def Sys2Proof.Machine.highDigitTable : Vector (Fin 35) 16 := #v[0, 2, 4, 6, 9, 11, 14, 16, 19, 21, 24, 26, 28, 30, 32, 34]

/-- R79: exactly which inputs `ParseUUID` accepts and the key it gives for them. -/
def Obligations.ParserAcceptsExactlyTheCanonicalForm : Prop :=
  ∀ (len : Byte) (s : UuidText) (k : Block),
    parseUuid len s = some k ↔
      len.toNat = 36 ∧ s[8] = 0x2D ∧ s[13] = 0x2D ∧ s[18] = 0x2D ∧ s[23] = 0x2D ∧
      ∀ i : Fin 16, ∃ hi lo : Nat, hexDigitValue (s[(highDigitTable[i]).val]'(by omega)) hi ∧
        hexDigitValue (s[(highDigitTable[i]).val + 1]'(by omega)) lo ∧ k[i].toNat = 16 * hi + lo

/-- R83: every one of the 2^128 key values can be produced. -/
def Obligations.EveryKeyHasAText : Prop :=
  ∀ k : Block, ∃ s : UuidText, parseUuid 36 s = some k

/-- R77: the key does not depend on the case of the text. -/
def Obligations.ParserIgnoresCase : Prop :=
  ∀ (len : Byte) (s s' : UuidText),
    (∀ p : Fin 36, s'[p] = s[p] ∨ (0x41 ≤ s[p].toNat ∧ s[p].toNat ≤ 0x46 ∧ s'[p] = s[p] + 0x20)) →
      parseUuid len s' = parseUuid len s

/-- R80: `PARSE` on a string the parser accepts, and on one it rejects. -/
def Obligations.ParseCommand : Prop :=
  ∀ s : State,
    (∀ k, parseUuid s.strlen s.str = some k → exec .parse s = .next { s with key := k, status := 0x01 }) ∧
    (parseUuid s.strlen s.str = none → exec .parse s = .next { s with status := 0x12 })

/-! ### The cipher and ECBENC (spec/41_aes_ecb.md) -/

/-- R91: the laws of multiplication in GF(2^8), and the two constant multipliers of the cipher. -/
def Obligations.FieldMultiplicationLaws : Prop :=
  (∀ a b : Byte, gfMul a b = gfMul b a) ∧ (∀ a b c : Byte, gfMul (gfMul a b) c = gfMul a (gfMul b c)) ∧
  (∀ a b c : Byte, gfMul a (b ^^^ c) = gfMul a b ^^^ gfMul a c) ∧ (∀ a : Byte, gfMul a 0x01 = a) ∧
  (∀ a : Byte, gfMul a 0x00 = 0x00) ∧ (∀ a : Byte, gfMul 0x02 a = mulBy2 a) ∧ (∀ a : Byte, gfMul 0x03 a = mulBy3 a) ∧
  gfMul 0x57 0x83 = 0xC1 ∧ gfMul 0x57 0x13 = 0xFE

/-- R92: the table of R93 is the function R92 constructs: the inverse (zero for zero), then the affine map. Every non-zero
byte has an inverse. -/
def Obligations.SboxTableIsItsConstruction : Prop :=
  sbox 0x00 = 0x63 ∧
  (∀ a : Byte, a ≠ 0x00 → ∃ b : Byte, gfMul a b = 0x01) ∧
  (∀ a b : Byte, gfMul a b = 0x01 → sbox a = b ^^^ rotl8 b 1 ^^^ rotl8 b 2 ^^^ rotl8 b 3 ^^^ rotl8 b 4 ^^^ 0x63) ∧
  (∀ a : Byte, sbox a = sboxByRule a)

/-- R93: `SBOX` is a permutation of 0..255 with no fixed point. -/
def Obligations.SboxIsPermutationWithoutFixedPoint : Prop :=
  Function.Bijective sbox ∧ ∀ a : Byte, sbox a ≠ a

/-- R94, R96, R97, R102: the array view of three of the transformations. -/
def Obligations.TransformationsInTheArrayView : Prop :=
  ∀ (t rk : Block) (r c : Fin 4),
    cell (subBytes t) r c = sbox (cell t r c) ∧ cell (shiftRows t) r c = cell t r (c + r) ∧
      cell (addRoundKey t rk) r c = cell t r c ^^^ rk[r.val + 4 * c.val]

/-- R98: `MixColumns` in the array view, with the multiplication of R91. -/
def Obligations.MixColumnsIsTheMatrixProduct : Prop :=
  ∀ (t : Block) (c : Fin 4),
    cell (mixColumns t) 0 c = gfMul 0x02 (cell t 0 c) ^^^ gfMul 0x03 (cell t 1 c) ^^^ cell t 2 c ^^^ cell t 3 c ∧
    cell (mixColumns t) 1 c = cell t 0 c ^^^ gfMul 0x02 (cell t 1 c) ^^^ gfMul 0x03 (cell t 2 c) ^^^ cell t 3 c ∧
    cell (mixColumns t) 2 c = cell t 0 c ^^^ cell t 1 c ^^^ gfMul 0x02 (cell t 2 c) ^^^ gfMul 0x03 (cell t 3 c) ∧
    cell (mixColumns t) 3 c = gfMul 0x03 (cell t 0 c) ^^^ cell t 1 c ^^^ cell t 2 c ^^^ gfMul 0x02 (cell t 3 c)

/-- R99, R100, R101: the ten round constants, each twice the one before; the 44 words of the key expansion and the recurrence
they satisfy; and the round keys they make, the first of them the key. -/
def Obligations.KeyExpansionRecurrence : Prop :=
  (List.range' 1 10).map rcon = [0x01, 0x02, 0x04, 0x08, 0x10, 0x20, 0x40, 0x80, 0x1B, 0x36] ∧
  (∀ j : Nat, 1 ≤ j → rcon (j + 1) = xtime (rcon j)) ∧
  ∀ k : Block,
    (keyWords k).length = 44 ∧
    (∀ i j : Fin 4, (keyWords k)[i.val]?.map (fun w => w[j]) = some k[4 * i.val + j.val]) ∧
    (∀ i : Nat, 4 ≤ i → i < 44 → ∃ wi w1 w4 : KeyWord, (keyWords k)[i]? = some wi ∧ (keyWords k)[i - 1]? = some w1 ∧
      (keyWords k)[i - 4]? = some w4 ∧
      wi = if i % 4 = 0 then
          #v[w4[0] ^^^ (sbox w1[1] ^^^ rcon (i / 4)), w4[1] ^^^ sbox w1[2], w4[2] ^^^ sbox w1[3], w4[3] ^^^ sbox w1[0]]
        else #v[w4[0] ^^^ w1[0], w4[1] ^^^ w1[1], w4[2] ^^^ w1[2], w4[3] ^^^ w1[3]]) ∧
    (∀ r : Fin 11, ∀ j : Fin 16, (keyWords k)[4 * r.val + j.val / 4]?.map (fun w => w[j.val % 4]'(by omega)) =
      some (roundKey k r)[j]) ∧
    roundKey k 0 = k

/-- R103: the initial `AddRoundKey`, nine rounds with `MixColumns`, and a tenth without. -/
def Obligations.CipherRounds : Prop :=
  ∀ k p : Block,
    cipherState k p 0 = addRoundKey p (roundKey k 0) ∧
    (∀ n : Nat, cipherState k p (n + 1) =
      addRoundKey (mixColumns (shiftRows (subBytes (cipherState k p n)))) (roundKey k (n + 1))) ∧
    aes k p = addRoundKey (shiftRows (subBytes (cipherState k p 9))) (roundKey k 10)

/-- R103: "For a fixed key the function is a bijection on 16-byte blocks". -/
def Obligations.CipherIsABijection : Prop :=
  ∀ k : Block, Function.Bijective (aes k)

/-- R105: `ECBENC` always succeeds. -/
def Obligations.EcbencCommand : Prop :=
  ∀ s : State, exec .ecbenc s = .next { s with blkout := aes s.key s.blkin, status := 0x01 }

/-- One block of the host's ECB loop: load `BLKIN`, `cmd ECBENC`, read `BLKOUT` (R104). -/
def Sys2Proof.Machine.ecbLoop (p : Block) : List Transaction :=
  lineTransactions (.ldblk p.toList) ++ lineTransactions (.cmd .ecbenc) ++ readsFrom 0x30 16

/-- R104: the host's loop over `m` blocks, in any state, reads the ECB encryption of the blocks under the key in place,
and leaves the key in place. -/
def Obligations.HostLoopIsEcbMode : Prop :=
  ∀ (s : State) (ps : List Block), ∃ t,
    transactAll (ps.flatMap ecbLoop) s = .next t ∧ t.key = s.key ∧
      t.replies = s.replies ++ (ps.map (aes s.key)).flatMap Vector.toList

/-! ### CMAC (spec/42_cmac.md) -/

/-- R10: the big-endian integer view of a block, and `bytes16` as its inverse. -/
def Obligations.IntegerViewOfABlock : Prop :=
  (∀ b : Block, blockInt b = ∑ i : Fin 16, b[i].toNat * 2 ^ (8 * (15 - i.val))) ∧
  (∀ b : Block, blockInt b < 2 ^ 128 ∧ bytes16 (blockInt b) = b) ∧ (∀ v : Nat, v < 2 ^ 128 → blockInt (bytes16 v) = v)

/-- R115: doubling is a shift of the 128-bit integer that drops the top bit, and an exclusive-or with `0x87` when that bit
was 1. -/
def Obligations.DoublingShiftsTheInteger : Prop :=
  ∀ b : Block, blockInt (dbl b) = if b[0].getLsbD 7 then (2 * blockInt b % 2 ^ 128) ^^^ 0x87 else 2 * blockInt b

/-- R118: how many blocks, that they are the message in order, and how long the last one is. -/
def Obligations.SplittingCoversTheMessage : Prop :=
  ∀ m : List Byte,
    (m = [] → blockCount m.length = 1) ∧
    (m ≠ [] → 16 * (blockCount m.length - 1) < m.length ∧ m.length ≤ 16 * blockCount m.length) ∧
    (List.range (blockCount m.length - 1)).flatMap (messageBlock m) ++ lastBlock m = m ∧
    (∀ i : Nat, i < blockCount m.length - 1 → (messageBlock m i).length = 16) ∧
    (lastBlock m).length ≤ 16 ∧ ((lastBlock m).length = 0 ↔ m = []) ∧
    ((lastBlock m).length = 16 ↔ 0 < m.length ∧ m.length % 16 = 0)

/-- R119: the bytes of a padded block. -/
def Obligations.PaddingBytes : Prop :=
  ∀ (m : List Byte) (i : Fin 16), m.length ≤ 15 →
    (padBlock m)[i] = if h : i.val < m.length then m[i.val] else if i.val = m.length then 0x80 else 0x00

/-- The masked last block of R120, from the subkeys of R116 written out. -/
def Sys2Proof.Machine.maskedLastBlock (k : Block) (m : List Byte) : Block :=
  if m.length = 16 then xorBlock (blockOfList m) (dbl (aes k (Vector.replicate 16 0)))
  else xorBlock (padBlock m) (dbl (dbl (aes k (Vector.replicate 16 0))))

/-- R121: the tag of a message of any length, by the number of its blocks: one block; two blocks; and of a longer message,
the encryption of the first block is chained into the second. -/
def Obligations.CmacChainsBlocks : Prop :=
  ∀ (k b c : Block) (m : List Byte),
    (m.length ≤ 16 → cmac k m = aes k (maskedLastBlock k m)) ∧
    (0 < m.length → m.length ≤ 16 → cmac k (b.toList ++ m) = aes k (xorBlock (aes k b) (maskedLastBlock k m))) ∧
    (0 < m.length → cmac k (b.toList ++ c.toList ++ m) = cmac k ((xorBlock c (aes k b)).toList ++ m))

/-- R124: `CMAC` with a length in range, and with a length beyond the buffer. -/
def Obligations.CmacCommand : Prop :=
  ∀ s : State,
    (s.msglen.toNat ≤ 64 →
      exec .cmac s = .next { s with tag := cmac s.key (s.msg.toList.take s.msglen.toNat), status := 0x01 }) ∧
    (64 < s.msglen.toNat → exec .cmac s = .next { s with status := 0x32 })

/-! ### Extraction and derivation (spec/43_extract_derive.md) -/

/-- R134, R135: `EXTRACT` always succeeds, and the six bytes it writes. -/
def Obligations.ExtractCommand : Prop :=
  ∀ s : State,
    exec .extract s = .next { s with
      addr := #v[s.tag[5] ||| 0xC0, s.tag[4], s.tag[3], s.tag[2], s.tag[1], s.tag[0]], status := 0x01 }

/-- R134: what extraction forgets, and its image. -/
def Obligations.ExtractionKernelAndImage : Prop :=
  (∀ t u : Block, extractAddress t = extractAddress u ↔
    t[0] = u[0] ∧ t[1] = u[1] ∧ t[2] = u[2] ∧ t[3] = u[3] ∧ t[4] = u[4] ∧ t[5] &&& 0x3F = u[5] &&& 0x3F) ∧
  (∀ a : DeviceAddress, (∃ t : Block, extractAddress t = a) ↔ a[0] &&& 0xC0 = 0xC0)

/-- R138, R139: `DERIVE` on a string the parser accepts, and on one it rejects. -/
def Obligations.DeriveCommand : Prop :=
  ∀ s : State,
    (∀ k, parseUuid s.strlen s.str = some k →
      exec .derive s = .next { s with
        key := k, tag := cmac k [0x63, 0x61, 0x6E, 0x64, 0x79],
        addr := extractAddress (cmac k [0x63, 0x61, 0x6E, 0x64, 0x79]), status := 0x01 }) ∧
    (parseUuid s.strlen s.str = none → exec .derive s = .next { s with status := 0x12 })

/-- R140: `DERIVE` equals its stages: `cmd PARSE`, `ldmsg 63616e6479`, `cmd CMAC`, `cmd EXTRACT` leave the same `KEY`, `TAG`,
`ADDR` and `STATUS`, and differ only in `MSG[0..4]` and `MSGLEN`; when `PARSE` fails, both leave `STATUS = 0x12` and
nothing else changed. -/
def Obligations.DeriveEqualsItsStages : Prop :=
  ∀ s : State,
    (∀ p d, exec .parse s = .next p → p.status = 0x01 → exec .derive s = .next d → ∃ t,
      transactAll (scriptTransactions [.ldmsg [0x63, 0x61, 0x6E, 0x64, 0x79], .cmd .cmac, .cmd .extract]) p = .next t ∧
      t.key = d.key ∧ t.tag = d.tag ∧ t.addr = d.addr ∧ t.status = d.status ∧
      (∀ a : Byte, a.toNat ≠ 0x03 → ¬ (0x90 ≤ a.toNat ∧ a.toNat ≤ 0x94) → hostRead a t = hostRead a d)) ∧
    (∀ p d, exec .parse s = .next p → p.status ≠ 0x01 → exec .derive s = .next d →
      p = { s with status := 0x12 } ∧ d = { s with status := 0x12 })

/-- R141 (3): after a successful `DERIVE` or `EXTRACT` the two highest bits of the address are set. -/
def Obligations.DerivedAddressHasTopBits : Prop :=
  ∀ s t : State, (exec .derive s = .next t ∧ t.status = 0x01) ∨ exec .extract s = .next t → t.addr[0] &&& 0xC0 = 0xC0

/-- R123, R142: the label case unrolled (two cipher calls, no chaining step), and the known vector of the all-zero UUID. -/
def Obligations.LabelCaseAndKnownVector : Prop :=
  (∀ k : Block, cmac k Config.label =
    aes k (xorBlock #v[0x63, 0x61, 0x6E, 0x64, 0x79, 0x80, 0, 0, 0, 0, 0, 0, 0, 0, 0, 0]
      (dbl (dbl (aes k (Vector.replicate 16 0)))))) ∧
  cmac (Vector.replicate 16 0) Config.label =
      #v[0x41, 0xA5, 0x1E, 0xAD, 0x7C, 0x2B, 0x80, 0x35, 0x95, 0x7A, 0x0E, 0xA7, 0x83, 0xBC, 0x0F, 0x30] ∧
  extractAddress #v[0x41, 0xA5, 0x1E, 0xAD, 0x7C, 0x2B, 0x80, 0x35, 0x95, 0x7A, 0x0E, 0xA7, 0x83, 0xBC, 0x0F, 0x30] =
      #v[0xEB, 0x7C, 0xAD, 0x1E, 0xA5, 0x41]

/-- R71: the document's library call, run on the block from any state, gives the document's result for every string: the
address of the UUID it spells, or ParseError. The call reads `ADDR` in every case and looks at it only after success, which
is the model's choice (notes/assumptions/8.md, DESIGN CHOICE). -/
def Obligations.LibraryCallIsDerive : Prop :=
  ∀ (text : List Byte) (s : State),
    runDeriveCall text s =
      if text.length = 36 then
        match parseUuid 36 (Vector.ofFn fun p => text.getD p 0) with
        | some k => .address (extractAddress (cmac k Config.label)).toList
        | none => .parseError
      else .parseError

/-- R145: the display form: 17 characters, the pair of byte `i` at `3*i`, high nibble first, lower case, colons between. -/
def Obligations.DisplayForm : Prop :=
  ∀ a : DeviceAddress,
    (formatAddr a).length = 17 ∧
    (∀ i : Fin 6, ∃ c d : Byte, (formatAddr a)[3 * i.val]? = some c ∧ (formatAddr a)[3 * i.val + 1]? = some d ∧
      (∃ hi lo : Nat, hexDigitValue c hi ∧ hexDigitValue d lo ∧ a[i].toNat = 16 * hi + lo) ∧
      ¬ (0x41 ≤ c.toNat ∧ c.toNat ≤ 0x46) ∧ ¬ (0x41 ≤ d.toNat ∧ d.toNat ≤ 0x46)) ∧
    (∀ i : Fin 5, (formatAddr a)[3 * i.val + 2]? = some 0x3A)

/-! ### CLEAR (spec/44_system.md) -/

/-- R146: `CLEAR` leaves the reset state in every register but `STATUS`, which is `0x01`. -/
def Obligations.ClearCommand : Prop :=
  ∀ s : State,
    exec .clear s = .next { State.reset with status := 0x01, pending := s.pending, replies := s.replies }

/-! ### The whole machine -/

/-- R174: the block never halts, never becomes stuck and never refuses a transaction. -/
def Obligations.EveryStepGoesOn : Prop := ∀ s : State, stepGoesOn s

/-- The invariant of Safety.lean holds at reset. -/
def Obligations.ResetMeetsTheInvariant : Prop := State.reset.Inv

/-- R29, R33: every step keeps `STATUS` among its five values and `ADDR` unfilled or well formed. -/
def Obligations.StepKeepsTheInvariant : Prop :=
  ∀ s t : State, s.Inv → step s = .next t → t.Inv

/-- From every state that meets the invariant, every run of any length goes on and stays safe. -/
def Obligations.RunsStaySafe : Prop := ∀ (n : Nat) (s : State), s.Inv → SafeRun n s

/-- R163: any interleaving of transactions on `n` instances completes and gives, on each instance, the result of that
instance's own sequence. -/
def Obligations.InstancesAreIndependent : Prop :=
  ∀ (n : Nat) (sched : Schedule n) (sys : System n), ∃ sys',
    runSchedule sched sys = .next sys' ∧
      ∀ i : Fin n, transactAll (ownTransactions i sched) sys[i] = .next sys'[i]

/-- An evaluation is one key expansion and the ten rounds, the last without `MixColumns`: `ts` holds the state before round
1 and after each round (R175; spec/41_aes_ecb.md R101, R103). -/
def Sys2Proof.Machine.RunsTenRounds (c : CipherCall) : Prop :=
  (keyWords c.key).length = 44 ∧
  ∃ ts : Vector Block 11,
    ts[0] = addRoundKey c.input (roundKeyOf (keyWords c.key) 0) ∧
    (∀ r : Fin 9, ts[r.val + 1] =
      addRoundKey (mixColumns (shiftRows (subBytes ts[r.val]))) (roundKeyOf (keyWords c.key) (r.val + 1))) ∧
    ts[10] = addRoundKey (shiftRows (subBytes ts[9])) (roundKeyOf (keyWords c.key) 10) ∧
    ts[10] = c.output

/-- The evaluations `cs` compute the tag `t` of the message `m` under the key `k`: all use `k`, the first enciphers the zero
block and only its output makes the subkeys, each of the `n` that follow enciphers the output before it (zeros for the
first) xored with its message block, the last one's masked, and the last output is `t` (spec/42_cmac.md R116 to R121). -/
def Sys2Proof.Machine.CallsComputeTag (k : Block) (m : List Byte) (cs : List CipherCall) (t : Block) : Prop :=
  (∀ c ∈ cs, c.key = k ∧ RunsTenRounds c) ∧
  ∃ (first : CipherCall) (chain : List CipherCall),
    cs = first :: chain ∧ first.input = zeroBlock ∧ chain.length = blockCount m.length ∧
    (∀ (j : Nat) (c : CipherCall), chain[j]? = some c →
      c.input = xorBlock (if j = 0 then zeroBlock else (chain[j - 1]?.map CipherCall.output).getD zeroBlock)
        (if j + 1 < chain.length then blockOfList (messageBlock m j)
         else if (lastBlock m).length = 16 then xorBlock (blockOfList (lastBlock m)) (dbl first.output)
         else xorBlock (padBlock (lastBlock m)) (dbl (dbl first.output)))) ∧
    chain.getLast?.map CipherCall.output = some t

/-- R175: how many forward-cipher evaluations each command's definition contains, and that what the command leaves is made of
exactly their outputs. `ECBENC` leaves the output of its one evaluation in `BLKOUT`; `CMAC` and `DERIVE` leave the tag that
their chain of evaluations computes; the commands and cases that count none leave a state that takes no output. Which
evaluations are counted is the model's reading, notes/assumptions/9.md (DEDUCED). -/
def Obligations.CipherEvaluationCounts : Prop :=
  ∀ s : State,
    (commandCipherCalls .parse s = [] ∧
      exec .parse s = .next (match parseUuid s.strlen s.str with
        | some k => (s.setKey k).setStatus 0x01
        | none => s.setStatus 0x12)) ∧
    (commandCipherCalls .extract s = [] ∧ exec .extract s = .next ((s.setAddr (extractAddress s.tag)).setStatus 0x01)) ∧
    (commandCipherCalls .clear s = [] ∧ exec .clear s = .next ((zeroRegisters s).setStatus 0x01)) ∧
    (∃ c : CipherCall, commandCipherCalls .ecbenc s = [c] ∧ c.key = s.key ∧ c.input = s.blkin ∧ RunsTenRounds c ∧
      exec .ecbenc s = .next ((s.setBlkout c.output).setStatus 0x01)) ∧
    (commandCipherCalls .cmac s).length =
      (if s.msglen.toNat ≤ 16 then 2 else if s.msglen.toNat ≤ 32 then 3 else if s.msglen.toNat ≤ 48 then 4
       else if s.msglen.toNat ≤ 64 then 5 else 0) ∧
    (if s.msglen.toNat ≤ 64 then
       ∃ t, CallsComputeTag s.key (s.msg.toList.take s.msglen.toNat) (commandCipherCalls .cmac s) t ∧
         exec .cmac s = .next ((s.setTag t).setStatus 0x01)
     else exec .cmac s = .next (s.setStatus 0x32)) ∧
    (match parseUuid s.strlen s.str with
     | some k => (commandCipherCalls .derive s).length = 2 ∧
        ∃ t, CallsComputeTag k Config.label (commandCipherCalls .derive s) t ∧
          exec .derive s = .next ((((s.setKey k).setTag t).setAddr (extractAddress t)).setStatus 0x01)
     | none => commandCipherCalls .derive s = [] ∧ exec .derive s = .next (s.setStatus 0x12))
end

