-- ==== Sys2Proof/Laws/Bytes.lean ====
section
/-! SUPPORT. The bytes of the byte strings that the operations make. -/

namespace Sys2Proof.Machine

@[simp] theorem zeroBlock_getElem (i : Nat) (h : i < 16) : zeroBlock[i] = 0 := by simp [zeroBlock]

@[simp] theorem xorBlock_getElem (a b : Block) (i : Nat) (h : i < 16) : (xorBlock a b)[i] = a[i] ^^^ b[i] := by
  simp [xorBlock]

@[simp] theorem blockOfList_getElem (l : List Byte) (i : Nat) (h : i < 16) : (blockOfList l)[i] = l.getD i 0 := by
  simp [blockOfList]

@[simp] theorem subBytes_getElem (t : Block) (i : Nat) (h : i < 16) : (subBytes t)[i] = sbox t[i] := by
  simp [subBytes]

@[simp] theorem shiftRows_getElem (t : Block) (i : Nat) (h : i < 16) :
    (shiftRows t)[i] = t[(i + 4 * (i % 4)) % 16]'(Nat.mod_lt _ (by decide)) := by
  simp [shiftRows]

@[simp] theorem addRoundKey_getElem (t rk : Block) (i : Nat) (h : i < 16) : (addRoundKey t rk)[i] = t[i] ^^^ rk[i] := by
  simp [addRoundKey]

@[simp] theorem xorWord_getElem (a b : KeyWord) (i : Nat) (h : i < 4) : (xorWord a b)[i] = a[i] ^^^ b[i] := by
  simp [xorWord]

@[simp] theorem subWord_getElem (w : KeyWord) (i : Nat) (h : i < 4) : (subWord w)[i] = sbox w[i] := by
  simp [subWord]

/-- A block made from its own bytes. -/
@[simp] theorem blockOfList_toList (b : Block) : blockOfList b.toList = b := by
  ext i hi
  simp [hi]

theorem xorBlock_zeroBlock (b : Block) : xorBlock zeroBlock b = b := by
  ext i hi
  simp

/-- Exclusive-or with the same block twice is the block. -/
theorem xorBlock_cancel_right (a b : Block) : xorBlock (xorBlock a b) b = a := by
  apply Vector.ext
  intro i hi
  simp

end Sys2Proof.Machine
end

