-- ==== Sys2Proof/Laws/Flags.lean ====
section
/-! SUPPORT. The `STATUS` byte of each outcome (spec/10_state.md R33). -/

namespace Sys2Proof.Machine

@[simp] theorem statusOfErr_parseError : statusOfErr .parseError = 0x12 := by decide

@[simp] theorem statusOfErr_illegalCommand (v : Byte) : statusOfErr (.illegalCommand v) = 0x22 := by
  change statusOfErr (.illegalCommand 0) = 0x22; decide

@[simp] theorem statusOfErr_badLength : statusOfErr .badLength = 0x32 := by decide

theorem legalStatus_ok : legalStatus statusOk = true := by decide

theorem legalStatus_err (e : Err) : legalStatus (statusOfErr e) = true := by
  cases e <;> simp [legalStatus]

end Sys2Proof.Machine
end

