-- ==== Sys2Proof/Laws/PerInstr.lean ====
section
/-! SUPPORT. What is said of every command, one lemma per constructor. -/

/-- The opcode of a command lies in `0x01`..`0x06` (spec/30_encoding.md R61). -/
def Sys2Proof.Laws.OpcodeRange.Statement (i : Sys2Proof.Instr) : Prop :=
  1 ≤ (Sys2Proof.encode i).toNat ∧ (Sys2Proof.encode i).toNat ≤ 6

theorem Sys2Proof.Laws.OpcodeRange.parse : Sys2Proof.Laws.OpcodeRange.Statement .parse := by
  constructor <;> decide

theorem Sys2Proof.Laws.OpcodeRange.ecbenc : Sys2Proof.Laws.OpcodeRange.Statement .ecbenc := by
  constructor <;> decide

theorem Sys2Proof.Laws.OpcodeRange.cmac : Sys2Proof.Laws.OpcodeRange.Statement .cmac := by
  constructor <;> decide

theorem Sys2Proof.Laws.OpcodeRange.extract : Sys2Proof.Laws.OpcodeRange.Statement .extract := by
  constructor <;> decide

theorem Sys2Proof.Laws.OpcodeRange.derive : Sys2Proof.Laws.OpcodeRange.Statement .derive := by
  constructor <;> decide

theorem Sys2Proof.Laws.OpcodeRange.clear : Sys2Proof.Laws.OpcodeRange.Statement .clear := by
  constructor <;> decide
end

