-- ==== Sys2Proof/Laws/State.lean ====
section
/-! SUPPORT. The setters of State: what each field is after each setter, and that a setter applied twice keeps the second
value. -/

namespace Sys2Proof.Machine

variable (s : State)

@[simp] theorem State.setStr_str (x : UuidText) : (s.setStr x).str = x := rfl
@[simp] theorem State.setStr_strlen (x : UuidText) : (s.setStr x).strlen = s.strlen := rfl
@[simp] theorem State.setStr_key (x : UuidText) : (s.setStr x).key = s.key := rfl
@[simp] theorem State.setStr_msg (x : UuidText) : (s.setStr x).msg = s.msg := rfl
@[simp] theorem State.setStr_msglen (x : UuidText) : (s.setStr x).msglen = s.msglen := rfl
@[simp] theorem State.setStr_blkin (x : UuidText) : (s.setStr x).blkin = s.blkin := rfl
@[simp] theorem State.setStr_blkout (x : UuidText) : (s.setStr x).blkout = s.blkout := rfl
@[simp] theorem State.setStr_tag (x : UuidText) : (s.setStr x).tag = s.tag := rfl
@[simp] theorem State.setStr_addr (x : UuidText) : (s.setStr x).addr = s.addr := rfl
@[simp] theorem State.setStr_status (x : UuidText) : (s.setStr x).status = s.status := rfl
@[simp] theorem State.setStr_pending (x : UuidText) : (s.setStr x).pending = s.pending := rfl
@[simp] theorem State.setStr_replies (x : UuidText) : (s.setStr x).replies = s.replies := rfl
@[simp] theorem State.setStr_setStr (x y : UuidText) : (s.setStr x).setStr y = s.setStr y := rfl

@[simp] theorem State.setStrlen_str (x : Byte) : (s.setStrlen x).str = s.str := rfl
@[simp] theorem State.setStrlen_strlen (x : Byte) : (s.setStrlen x).strlen = x := rfl
@[simp] theorem State.setStrlen_key (x : Byte) : (s.setStrlen x).key = s.key := rfl
@[simp] theorem State.setStrlen_msg (x : Byte) : (s.setStrlen x).msg = s.msg := rfl
@[simp] theorem State.setStrlen_msglen (x : Byte) : (s.setStrlen x).msglen = s.msglen := rfl
@[simp] theorem State.setStrlen_blkin (x : Byte) : (s.setStrlen x).blkin = s.blkin := rfl
@[simp] theorem State.setStrlen_blkout (x : Byte) : (s.setStrlen x).blkout = s.blkout := rfl
@[simp] theorem State.setStrlen_tag (x : Byte) : (s.setStrlen x).tag = s.tag := rfl
@[simp] theorem State.setStrlen_addr (x : Byte) : (s.setStrlen x).addr = s.addr := rfl
@[simp] theorem State.setStrlen_status (x : Byte) : (s.setStrlen x).status = s.status := rfl
@[simp] theorem State.setStrlen_pending (x : Byte) : (s.setStrlen x).pending = s.pending := rfl
@[simp] theorem State.setStrlen_replies (x : Byte) : (s.setStrlen x).replies = s.replies := rfl
@[simp] theorem State.setStrlen_setStrlen (x y : Byte) : (s.setStrlen x).setStrlen y = s.setStrlen y := rfl

@[simp] theorem State.setKey_str (x : Block) : (s.setKey x).str = s.str := rfl
@[simp] theorem State.setKey_strlen (x : Block) : (s.setKey x).strlen = s.strlen := rfl
@[simp] theorem State.setKey_key (x : Block) : (s.setKey x).key = x := rfl
@[simp] theorem State.setKey_msg (x : Block) : (s.setKey x).msg = s.msg := rfl
@[simp] theorem State.setKey_msglen (x : Block) : (s.setKey x).msglen = s.msglen := rfl
@[simp] theorem State.setKey_blkin (x : Block) : (s.setKey x).blkin = s.blkin := rfl
@[simp] theorem State.setKey_blkout (x : Block) : (s.setKey x).blkout = s.blkout := rfl
@[simp] theorem State.setKey_tag (x : Block) : (s.setKey x).tag = s.tag := rfl
@[simp] theorem State.setKey_addr (x : Block) : (s.setKey x).addr = s.addr := rfl
@[simp] theorem State.setKey_status (x : Block) : (s.setKey x).status = s.status := rfl
@[simp] theorem State.setKey_pending (x : Block) : (s.setKey x).pending = s.pending := rfl
@[simp] theorem State.setKey_replies (x : Block) : (s.setKey x).replies = s.replies := rfl
@[simp] theorem State.setKey_setKey (x y : Block) : (s.setKey x).setKey y = s.setKey y := rfl

@[simp] theorem State.setMsg_str (x : MsgBuffer) : (s.setMsg x).str = s.str := rfl
@[simp] theorem State.setMsg_strlen (x : MsgBuffer) : (s.setMsg x).strlen = s.strlen := rfl
@[simp] theorem State.setMsg_key (x : MsgBuffer) : (s.setMsg x).key = s.key := rfl
@[simp] theorem State.setMsg_msg (x : MsgBuffer) : (s.setMsg x).msg = x := rfl
@[simp] theorem State.setMsg_msglen (x : MsgBuffer) : (s.setMsg x).msglen = s.msglen := rfl
@[simp] theorem State.setMsg_blkin (x : MsgBuffer) : (s.setMsg x).blkin = s.blkin := rfl
@[simp] theorem State.setMsg_blkout (x : MsgBuffer) : (s.setMsg x).blkout = s.blkout := rfl
@[simp] theorem State.setMsg_tag (x : MsgBuffer) : (s.setMsg x).tag = s.tag := rfl
@[simp] theorem State.setMsg_addr (x : MsgBuffer) : (s.setMsg x).addr = s.addr := rfl
@[simp] theorem State.setMsg_status (x : MsgBuffer) : (s.setMsg x).status = s.status := rfl
@[simp] theorem State.setMsg_pending (x : MsgBuffer) : (s.setMsg x).pending = s.pending := rfl
@[simp] theorem State.setMsg_replies (x : MsgBuffer) : (s.setMsg x).replies = s.replies := rfl
@[simp] theorem State.setMsg_setMsg (x y : MsgBuffer) : (s.setMsg x).setMsg y = s.setMsg y := rfl

@[simp] theorem State.setMsglen_str (x : Byte) : (s.setMsglen x).str = s.str := rfl
@[simp] theorem State.setMsglen_strlen (x : Byte) : (s.setMsglen x).strlen = s.strlen := rfl
@[simp] theorem State.setMsglen_key (x : Byte) : (s.setMsglen x).key = s.key := rfl
@[simp] theorem State.setMsglen_msg (x : Byte) : (s.setMsglen x).msg = s.msg := rfl
@[simp] theorem State.setMsglen_msglen (x : Byte) : (s.setMsglen x).msglen = x := rfl
@[simp] theorem State.setMsglen_blkin (x : Byte) : (s.setMsglen x).blkin = s.blkin := rfl
@[simp] theorem State.setMsglen_blkout (x : Byte) : (s.setMsglen x).blkout = s.blkout := rfl
@[simp] theorem State.setMsglen_tag (x : Byte) : (s.setMsglen x).tag = s.tag := rfl
@[simp] theorem State.setMsglen_addr (x : Byte) : (s.setMsglen x).addr = s.addr := rfl
@[simp] theorem State.setMsglen_status (x : Byte) : (s.setMsglen x).status = s.status := rfl
@[simp] theorem State.setMsglen_pending (x : Byte) : (s.setMsglen x).pending = s.pending := rfl
@[simp] theorem State.setMsglen_replies (x : Byte) : (s.setMsglen x).replies = s.replies := rfl
@[simp] theorem State.setMsglen_setMsglen (x y : Byte) : (s.setMsglen x).setMsglen y = s.setMsglen y := rfl

@[simp] theorem State.setBlkin_str (x : Block) : (s.setBlkin x).str = s.str := rfl
@[simp] theorem State.setBlkin_strlen (x : Block) : (s.setBlkin x).strlen = s.strlen := rfl
@[simp] theorem State.setBlkin_key (x : Block) : (s.setBlkin x).key = s.key := rfl
@[simp] theorem State.setBlkin_msg (x : Block) : (s.setBlkin x).msg = s.msg := rfl
@[simp] theorem State.setBlkin_msglen (x : Block) : (s.setBlkin x).msglen = s.msglen := rfl
@[simp] theorem State.setBlkin_blkin (x : Block) : (s.setBlkin x).blkin = x := rfl
@[simp] theorem State.setBlkin_blkout (x : Block) : (s.setBlkin x).blkout = s.blkout := rfl
@[simp] theorem State.setBlkin_tag (x : Block) : (s.setBlkin x).tag = s.tag := rfl
@[simp] theorem State.setBlkin_addr (x : Block) : (s.setBlkin x).addr = s.addr := rfl
@[simp] theorem State.setBlkin_status (x : Block) : (s.setBlkin x).status = s.status := rfl
@[simp] theorem State.setBlkin_pending (x : Block) : (s.setBlkin x).pending = s.pending := rfl
@[simp] theorem State.setBlkin_replies (x : Block) : (s.setBlkin x).replies = s.replies := rfl
@[simp] theorem State.setBlkin_setBlkin (x y : Block) : (s.setBlkin x).setBlkin y = s.setBlkin y := rfl

@[simp] theorem State.setBlkout_str (x : Block) : (s.setBlkout x).str = s.str := rfl
@[simp] theorem State.setBlkout_strlen (x : Block) : (s.setBlkout x).strlen = s.strlen := rfl
@[simp] theorem State.setBlkout_key (x : Block) : (s.setBlkout x).key = s.key := rfl
@[simp] theorem State.setBlkout_msg (x : Block) : (s.setBlkout x).msg = s.msg := rfl
@[simp] theorem State.setBlkout_msglen (x : Block) : (s.setBlkout x).msglen = s.msglen := rfl
@[simp] theorem State.setBlkout_blkin (x : Block) : (s.setBlkout x).blkin = s.blkin := rfl
@[simp] theorem State.setBlkout_blkout (x : Block) : (s.setBlkout x).blkout = x := rfl
@[simp] theorem State.setBlkout_tag (x : Block) : (s.setBlkout x).tag = s.tag := rfl
@[simp] theorem State.setBlkout_addr (x : Block) : (s.setBlkout x).addr = s.addr := rfl
@[simp] theorem State.setBlkout_status (x : Block) : (s.setBlkout x).status = s.status := rfl
@[simp] theorem State.setBlkout_pending (x : Block) : (s.setBlkout x).pending = s.pending := rfl
@[simp] theorem State.setBlkout_replies (x : Block) : (s.setBlkout x).replies = s.replies := rfl
@[simp] theorem State.setBlkout_setBlkout (x y : Block) : (s.setBlkout x).setBlkout y = s.setBlkout y := rfl

@[simp] theorem State.setTag_str (x : Block) : (s.setTag x).str = s.str := rfl
@[simp] theorem State.setTag_strlen (x : Block) : (s.setTag x).strlen = s.strlen := rfl
@[simp] theorem State.setTag_key (x : Block) : (s.setTag x).key = s.key := rfl
@[simp] theorem State.setTag_msg (x : Block) : (s.setTag x).msg = s.msg := rfl
@[simp] theorem State.setTag_msglen (x : Block) : (s.setTag x).msglen = s.msglen := rfl
@[simp] theorem State.setTag_blkin (x : Block) : (s.setTag x).blkin = s.blkin := rfl
@[simp] theorem State.setTag_blkout (x : Block) : (s.setTag x).blkout = s.blkout := rfl
@[simp] theorem State.setTag_tag (x : Block) : (s.setTag x).tag = x := rfl
@[simp] theorem State.setTag_addr (x : Block) : (s.setTag x).addr = s.addr := rfl
@[simp] theorem State.setTag_status (x : Block) : (s.setTag x).status = s.status := rfl
@[simp] theorem State.setTag_pending (x : Block) : (s.setTag x).pending = s.pending := rfl
@[simp] theorem State.setTag_replies (x : Block) : (s.setTag x).replies = s.replies := rfl
@[simp] theorem State.setTag_setTag (x y : Block) : (s.setTag x).setTag y = s.setTag y := rfl

@[simp] theorem State.setAddr_str (x : DeviceAddress) : (s.setAddr x).str = s.str := rfl
@[simp] theorem State.setAddr_strlen (x : DeviceAddress) : (s.setAddr x).strlen = s.strlen := rfl
@[simp] theorem State.setAddr_key (x : DeviceAddress) : (s.setAddr x).key = s.key := rfl
@[simp] theorem State.setAddr_msg (x : DeviceAddress) : (s.setAddr x).msg = s.msg := rfl
@[simp] theorem State.setAddr_msglen (x : DeviceAddress) : (s.setAddr x).msglen = s.msglen := rfl
@[simp] theorem State.setAddr_blkin (x : DeviceAddress) : (s.setAddr x).blkin = s.blkin := rfl
@[simp] theorem State.setAddr_blkout (x : DeviceAddress) : (s.setAddr x).blkout = s.blkout := rfl
@[simp] theorem State.setAddr_tag (x : DeviceAddress) : (s.setAddr x).tag = s.tag := rfl
@[simp] theorem State.setAddr_addr (x : DeviceAddress) : (s.setAddr x).addr = x := rfl
@[simp] theorem State.setAddr_status (x : DeviceAddress) : (s.setAddr x).status = s.status := rfl
@[simp] theorem State.setAddr_pending (x : DeviceAddress) : (s.setAddr x).pending = s.pending := rfl
@[simp] theorem State.setAddr_replies (x : DeviceAddress) : (s.setAddr x).replies = s.replies := rfl
@[simp] theorem State.setAddr_setAddr (x y : DeviceAddress) : (s.setAddr x).setAddr y = s.setAddr y := rfl

@[simp] theorem State.setStatus_str (x : Byte) : (s.setStatus x).str = s.str := rfl
@[simp] theorem State.setStatus_strlen (x : Byte) : (s.setStatus x).strlen = s.strlen := rfl
@[simp] theorem State.setStatus_key (x : Byte) : (s.setStatus x).key = s.key := rfl
@[simp] theorem State.setStatus_msg (x : Byte) : (s.setStatus x).msg = s.msg := rfl
@[simp] theorem State.setStatus_msglen (x : Byte) : (s.setStatus x).msglen = s.msglen := rfl
@[simp] theorem State.setStatus_blkin (x : Byte) : (s.setStatus x).blkin = s.blkin := rfl
@[simp] theorem State.setStatus_blkout (x : Byte) : (s.setStatus x).blkout = s.blkout := rfl
@[simp] theorem State.setStatus_tag (x : Byte) : (s.setStatus x).tag = s.tag := rfl
@[simp] theorem State.setStatus_addr (x : Byte) : (s.setStatus x).addr = s.addr := rfl
@[simp] theorem State.setStatus_status (x : Byte) : (s.setStatus x).status = x := rfl
@[simp] theorem State.setStatus_pending (x : Byte) : (s.setStatus x).pending = s.pending := rfl
@[simp] theorem State.setStatus_replies (x : Byte) : (s.setStatus x).replies = s.replies := rfl
@[simp] theorem State.setStatus_setStatus (x y : Byte) : (s.setStatus x).setStatus y = s.setStatus y := rfl

@[simp] theorem State.setPending_str (x : List Transaction) : (s.setPending x).str = s.str := rfl
@[simp] theorem State.setPending_strlen (x : List Transaction) : (s.setPending x).strlen = s.strlen := rfl
@[simp] theorem State.setPending_key (x : List Transaction) : (s.setPending x).key = s.key := rfl
@[simp] theorem State.setPending_msg (x : List Transaction) : (s.setPending x).msg = s.msg := rfl
@[simp] theorem State.setPending_msglen (x : List Transaction) : (s.setPending x).msglen = s.msglen := rfl
@[simp] theorem State.setPending_blkin (x : List Transaction) : (s.setPending x).blkin = s.blkin := rfl
@[simp] theorem State.setPending_blkout (x : List Transaction) : (s.setPending x).blkout = s.blkout := rfl
@[simp] theorem State.setPending_tag (x : List Transaction) : (s.setPending x).tag = s.tag := rfl
@[simp] theorem State.setPending_addr (x : List Transaction) : (s.setPending x).addr = s.addr := rfl
@[simp] theorem State.setPending_status (x : List Transaction) : (s.setPending x).status = s.status := rfl
@[simp] theorem State.setPending_pending (x : List Transaction) : (s.setPending x).pending = x := rfl
@[simp] theorem State.setPending_replies (x : List Transaction) : (s.setPending x).replies = s.replies := rfl
@[simp] theorem State.setPending_setPending (x y : List Transaction) : (s.setPending x).setPending y = s.setPending y := rfl

@[simp] theorem State.setReplies_str (x : List Byte) : (s.setReplies x).str = s.str := rfl
@[simp] theorem State.setReplies_strlen (x : List Byte) : (s.setReplies x).strlen = s.strlen := rfl
@[simp] theorem State.setReplies_key (x : List Byte) : (s.setReplies x).key = s.key := rfl
@[simp] theorem State.setReplies_msg (x : List Byte) : (s.setReplies x).msg = s.msg := rfl
@[simp] theorem State.setReplies_msglen (x : List Byte) : (s.setReplies x).msglen = s.msglen := rfl
@[simp] theorem State.setReplies_blkin (x : List Byte) : (s.setReplies x).blkin = s.blkin := rfl
@[simp] theorem State.setReplies_blkout (x : List Byte) : (s.setReplies x).blkout = s.blkout := rfl
@[simp] theorem State.setReplies_tag (x : List Byte) : (s.setReplies x).tag = s.tag := rfl
@[simp] theorem State.setReplies_addr (x : List Byte) : (s.setReplies x).addr = s.addr := rfl
@[simp] theorem State.setReplies_status (x : List Byte) : (s.setReplies x).status = s.status := rfl
@[simp] theorem State.setReplies_pending (x : List Byte) : (s.setReplies x).pending = s.pending := rfl
@[simp] theorem State.setReplies_replies (x : List Byte) : (s.setReplies x).replies = x := rfl
@[simp] theorem State.setReplies_setReplies (x y : List Byte) : (s.setReplies x).setReplies y = s.setReplies y := rfl

end Sys2Proof.Machine
end

