-- ==== Sys2Proof/Laws/Step.lean ====
section
/-! SUPPORT. What a command, a transaction and a step can do, said once. -/

namespace Sys2Proof.Machine

/-- The end of a successful command. -/
@[simp] theorem complete_eq (s : State) : complete s = .next (s.setStatus statusOk) := rfl

/-- The end of a command that raises an error. -/
@[simp] theorem raise_eq (e : Err) (s : State) : raise e s = .next (s.setStatus (statusOfErr e)) := rfl

@[simp] theorem andThen_next (s : State) (f : State → Host.Outcome State Fault Refusal) : andThen (.next s) f = f s := rfl

theorem transactAll_cons (t : Transaction) (ts : List Transaction) (s : State) :
    transactAll (t :: ts) s = andThen (transact t s) (transactAll ts) := rfl

@[simp] theorem zeroRegisters_pending (s : State) : (zeroRegisters s).pending = s.pending := rfl
@[simp] theorem zeroRegisters_replies (s : State) : (zeroRegisters s).replies = s.replies := rfl
@[simp] theorem zeroRegisters_addr (s : State) : (zeroRegisters s).addr = Vector.replicate 6 0 := rfl
@[simp] theorem zeroRegisters_status (s : State) : (zeroRegisters s).status = s.status := rfl
@[simp] theorem resetBlock_pending (s : State) : (resetBlock s).pending = s.pending := rfl
@[simp] theorem resetBlock_replies (s : State) : (resetBlock s).replies = s.replies := rfl
@[simp] theorem resetBlock_addr (s : State) : (resetBlock s).addr = Vector.replicate 6 0 := rfl
@[simp] theorem resetBlock_status (s : State) : (resetBlock s).status = 0 := rfl

/-- A write to `CMD` runs a command. -/
theorem transact_command (v : Byte) (s : State) : transact (.write 0x00 v) s = runCommand v s := rfl

/-- A write to any other address is a data write. -/
theorem transact_data (a v : Byte) (s : State) (h : a ≠ 0x00) : transact (.write a v) s = .next (hostWrite a v s) :=
  if_neg h

/-- Running two sequences one after the other. -/
theorem transactAll_append (xs ys : List Transaction) (s : State) :
    transactAll (xs ++ ys) s = andThen (transactAll xs s) (transactAll ys) := by
  induction xs generalizing s with
  | nil => rfl
  | cons t ts ih =>
    simp only [List.cons_append, transactAll_cons]
    cases transact t s with
    | next u => simpa using ih u
    | fault r => rfl
    | refused r => rfl

/-- The step with a transaction pending. -/
theorem step_cons (s : State) (t : Transaction) (ts : List Transaction) (h : s.pending = t :: ts) :
    step s = transact t (s.setPending ts) := by
  simp [step, takeTransaction, h]

/-- Everything a command can do: it succeeds, having written its own registers, or it replaces `STATUS` by its error. -/
theorem exec_cases (i : Instr) (s t : State) (h : exec i s = .next t) :
    (i = .parse ∧ ∃ k, parseUuid s.strlen s.str = some k ∧ t = (s.setKey k).setStatus statusOk) ∨
    (i = .ecbenc ∧ t = (s.setBlkout (aes s.key s.blkin)).setStatus statusOk) ∨
    (i = .cmac ∧ messageTooLong s = false ∧ t = (s.setTag (cmac s.key (messageOperand s))).setStatus statusOk) ∨
    (i = .extract ∧ t = (s.setAddr (extractAddress s.tag)).setStatus statusOk) ∨
    (i = .derive ∧ ∃ k, parseUuid s.strlen s.str = some k ∧
      t = (((s.setKey k).setTag (cmac k Config.label)).setAddr (extractAddress (cmac k Config.label))).setStatus statusOk) ∨
    (i = .clear ∧ t = (zeroRegisters s).setStatus statusOk) ∨
    (i = .parse ∧ parseUuid s.strlen s.str = none ∧ t = s.setStatus (statusOfErr .parseError)) ∨
    (i = .derive ∧ parseUuid s.strlen s.str = none ∧ t = s.setStatus (statusOfErr .parseError)) ∨
    (i = .cmac ∧ messageTooLong s = true ∧ t = s.setStatus (statusOfErr .badLength)) := by
  cases i with
  | parse => cases hp : parseUuid s.strlen s.str <;> simp_all [exec, execParse]
  | ecbenc => simp_all [exec, execEcbenc]
  | cmac => cases hm : messageTooLong s <;> simp_all [exec, execCmac]
  | extract => simp_all [exec, execExtract]
  | derive => cases hp : parseUuid s.strlen s.str <;> simp_all [exec, execDerive, deriveAll]
  | clear => simp_all [exec, execClear]

/-- Everything a transaction can do: append a reply, set a byte of the window, run a command, raise `IllegalCommand`, or
reset. -/
theorem transact_cases (x : Transaction) (s t : State) (h : transact x s = .next t) :
    (∃ a, x = .read a ∧ t = s.setReplies (s.replies ++ [hostRead a s])) ∨
    (∃ a v, x = .write a v ∧ a ≠ 0x00 ∧ t = hostWrite a v s) ∨
    (∃ v i, x = .write 0x00 v ∧ decode v = .ok i ∧ exec i s = .next t) ∨
    (∃ v w, x = .write 0x00 v ∧ decode v = .error (.illegal w) ∧
      t = s.setStatus (statusOfErr (.illegalCommand w))) ∨
    (x = .reset ∧ t = resetBlock s) := by
  cases x with
  | read a => exact .inl ⟨a, rfl, by simpa [transact, readTransaction] using h.symm⟩
  | write a v =>
    by_cases ha : a = 0x00
    · subst ha
      rw [transact_command, runCommand] at h
      match hd : decode v with
      | .ok i => exact .inr (.inr (.inl ⟨v, i, rfl, hd, by simpa [hd] using h⟩))
      | .error (.illegal w) => exact .inr (.inr (.inr (.inl ⟨v, w, rfl, hd, by simpa [hd] using h.symm⟩)))
    · rw [transact_data a v s ha] at h
      exact .inr (.inl ⟨a, v, rfl, ha, by simpa using h.symm⟩)
  | reset => exact .inr (.inr (.inr (.inr ⟨rfl, by simpa [transact] using h.symm⟩)))

/-- Everything a step can do: nothing, without a transaction, or the oldest transaction. -/
theorem step_cases (s t : State) (h : step s = .next t) :
    (s.pending = [] ∧ t = s) ∨ (∃ x xs, s.pending = x :: xs ∧ transact x (s.setPending xs) = .next t) := by
  match hp : s.pending with
  | [] => exact .inl ⟨rfl, by simpa [step, takeTransaction, hp] using h.symm⟩
  | x :: xs => exact .inr ⟨x, xs, rfl, by rw [step_cons s x xs hp] at h; exact h⟩

end Sys2Proof.Machine
end

