-- ==== Sys2Proof/Laws/Window.lean ====
section
/-! SUPPORT. The register window: which location stands at which address, that two addresses of one register byte are the
same address, and what a data write does. -/

namespace Sys2Proof.Machine

/-- The address of a location, for every location but a reserved one (spec/20_memory.md R43, "Byte `X[i]` of a buffer `X`
with base address `B` is at address `B + i`"). -/
def Loc.address : Loc → Option Nat
  | .cmd => some 0x00
  | .status => some 0x01
  | .strlen => some 0x02
  | .msglen => some 0x03
  | .key i => some (0x10 + i)
  | .blkin i => some (0x20 + i)
  | .blkout i => some (0x30 + i)
  | .tag i => some (0x40 + i)
  | .addr i => some (0x50 + i)
  | .str i => some (0x60 + i)
  | .msg i => some (0x90 + i)
  | .reserved => none

/-- Every address of the map carries the location whose address it is, or is reserved. -/
theorem address_locate (a : Byte) : locate a = .reserved ∨ (locate a).address = some a.toNat := by
  revert a; decide +kernel

/-- Every location but a reserved one stands at its address. -/
theorem locate_address (l : Loc) (n : Nat) (h : l.address = some n) : locate (BitVec.ofNat 8 n) = l := by
  cases l with
  | cmd => cases h; decide
  | status => cases h; decide
  | strlen => cases h; decide
  | msglen => cases h; decide
  | key i => cases h; revert i; decide
  | blkin i => cases h; revert i; decide
  | blkout i => cases h; revert i; decide
  | tag i => cases h; revert i; decide
  | addr i => cases h; revert i; decide
  | str i => cases h; revert i; decide
  | msg i => cases h; revert i; decide +kernel
  | reserved => cases h

/-- Two addresses with the same location, not a reserved one, are the same address. -/
theorem locate_injective (a b : Byte) (h : locate a = locate b) (hr : locate a ≠ .reserved) : a = b := by
  have ha := (address_locate a).resolve_left hr
  have hb := (address_locate b).resolve_left (h ▸ hr)
  rw [← h, ha] at hb
  exact BitVec.eq_of_toNat_eq (Option.some.inj hb)

/-- A byte put at a location is the byte that stands there, for every location that holds a byte. -/
theorem loadByte_storeByte_same (l : Loc) (v : Byte) (s : State) (hc : l ≠ .cmd) (hr : l ≠ .reserved) :
    loadByte l (storeByte l v s) = v := by
  cases l <;> simp_all [loadByte, storeByte]

/-- A byte put at a location leaves every other location alone. -/
theorem loadByte_storeByte_other (l m : Loc) (v : Byte) (s : State) (h : l ≠ m) :
    loadByte m (storeByte l v s) = loadByte m s := by
  cases l <;> cases m <;> simp_all [loadByte, storeByte, Fin.ext_iff]

/-- What a data write does: it puts the byte at the location of a read/write address, and otherwise nothing. -/
theorem hostWrite_cases (a v : Byte) (s : State) :
    ((locate a).access = .rw ∧ hostWrite a v s = storeByte (locate a) v s) ∨
      ((locate a).access ≠ .rw ∧ hostWrite a v s = s) := by
  unfold hostWrite
  cases h : (locate a).access <;> simp

/-- The window does not show the model's own fields. -/
@[simp] theorem hostRead_setPending (a : Byte) (s : State) (x : List Transaction) :
    hostRead a (s.setPending x) = hostRead a s := by
  unfold hostRead; cases locate a <;> rfl

@[simp] theorem hostRead_setReplies (a : Byte) (s : State) (x : List Byte) :
    hostRead a (s.setReplies x) = hostRead a s := by
  unfold hostRead; cases locate a <;> rfl

end Sys2Proof.Machine
end

