-- ==== Sys2Proof/Machine/ScriptText.lean ====
section
/-! DEFINITION. The script notation as text: from the characters of a line to a `ScriptLine` (spec/30_encoding.md R65,
R66). The host's side; where the notation is silent (white space, a `;` inside a quoted text) see
notes/assumptions/5.md. -/

namespace Sys2Proof.Machine

/-- The ASCII bytes of a string of ASCII characters. -/
def asciiBytes (text : String) : List Byte := text.toList.map fun c => BitVec.ofNat 8 c.toNat

/-- The pieces of a script line. -/
inductive Token
  /-- A mnemonic, a register name or a number. -/
  | word (w : List Byte)
  /-- A quoted text. -/
  | text (t : List Byte)
  | comma
  | equals
  deriving DecidableEq, Repr

/-- The word read so far, if any, before the tokens that follow it. -/
def flushWord (w : List Byte) (ts : List Token) : List Token :=
  match w with
  | [] => ts
  | b :: bs => .word (b :: bs) :: ts

/-- Cut a line into tokens. `quoted` says whether the scan is inside a quoted text, `w` is what has been read of the
current word or text. A `;` outside a quoted text starts a comment (R65). -/
def scanTokens (quoted : Bool) (w : List Byte) : List Byte → Option (List Token)
  | [] => if quoted then none else some (flushWord w [])
  | c :: cs =>
    if quoted then
      if c = 0x22 then (scanTokens false [] cs).map (.text w :: ·)
      else scanTokens true (w ++ [c]) cs
    else if c = 0x3B then some (flushWord w [])
    else if c = 0x22 then (scanTokens true [] cs).map (flushWord w)
    else if c = 0x2C then (scanTokens false [] cs).map fun ts => flushWord w (.comma :: ts)
    else if c = 0x3D then (scanTokens false [] cs).map fun ts => flushWord w (.equals :: ts)
    else if c = 0x20 || c = 0x09 || c = 0x0D then (scanTokens false [] cs).map (flushWord w)
    else scanTokens false (w ++ [c]) cs

/-- A number in a base, from the digits left to right. -/
def digitsValue (base : Nat) (isDigit : Byte → Bool) (acc : Nat) : List Byte → Option Nat
  | [] => some acc
  | c :: cs => if isDigit c then digitsValue base isDigit (acc * base + (hexVal c).toNat) cs else none

/-- A decimal digit. -/
def isDecDigit (c : Byte) : Bool := 0x30 ≤ c && c ≤ 0x39

/-- "Numbers are hexadecimal with `0x` or decimal" (R65). -/
def parseNumber : List Byte → Option Nat
  | [] => none
  | [c] => digitsValue 10 isDecDigit 0 [c]
  | c :: d :: cs =>
    if c = 0x30 && d = 0x78 then (if cs.isEmpty then none else digitsValue 16 isHexDigit 0 cs)
    else digitsValue 10 isDecDigit 0 (c :: d :: cs)

/-- A number that is a byte. -/
def parseByte (w : List Byte) : Option Byte :=
  match parseNumber w with
  | some n => if n < 256 then some (BitVec.ofNat 8 n) else none
  | none => none

/-- The bytes of a hex string, two digits a byte, in offset order (R66). -/
def parseHex : List Byte → Option (List Byte)
  | [] => some []
  | [_] => none
  | c :: d :: cs =>
    if isHexDigit c && isHexDigit d then (parseHex cs).map ((16 * hexVal c + hexVal d) :: ·) else none

/-- The name of a buffer (spec/20_memory.md R43). -/
def bufferName : Buffer → String
  | .key => "KEY"
  | .blkin => "BLKIN"
  | .blkout => "BLKOUT"
  | .tag => "TAG"
  | .addr => "ADDR"
  | .str => "STR"
  | .msg => "MSG"

/-- The buffers, in the order of R43. -/
def allBuffers : List Buffer := [.key, .blkin, .blkout, .tag, .addr, .str, .msg]

/-- The buffer a name stands for. -/
def parseBuffer (w : List Byte) : Option Buffer := allBuffers.find? fun b => asciiBytes (bufferName b) == w

/-- The mnemonics are those of R61, upper case (R65). -/
def parseMnemonic (w : List Byte) : Option Instr := allCommands.find? fun i => asciiBytes (mnemonic i) == w

/-- The part of a word before its first `+`, and the part after it if there is a `+`. -/
def splitPlus : List Byte → List Byte × Option (List Byte)
  | [] => ([], none)
  | c :: cs =>
    if c = 0x2B then ([], some cs)
    else ((c :: (splitPlus cs).1), (splitPlus cs).2)

/-- A register operand: "an address, a register name, or a buffer name with an offset" (R65). -/
def parseReg (w : List Byte) : Option RegRef :=
  if w == asciiBytes "CMD" then some .cmd
  else if w == asciiBytes "STATUS" then some .status
  else if w == asciiBytes "STRLEN" then some .strlen
  else if w == asciiBytes "MSGLEN" then some .msglen
  else
    match splitPlus w with
    | (_, none) => (parseByte w).map .address
    | (name, some offset) =>
      match parseBuffer name, parseNumber offset with
      | some b, some n => some (.buffer b n)
      | some _, none => none
      | none, _ => none

/-- The operand of `expect`: a register operand, or a buffer name alone for the buffer from its first byte on (R66). -/
def parseExpectReg (w : List Byte) : Option RegRef :=
  match parseBuffer w with
  | some b => some (.buffer b 0)
  | none => parseReg w

/-- A line from its mnemonic and operand tokens (R65, R66); `none` when it is no line of the notation. -/
def lineOfTokens (name : List Byte) (operands : List Token) : Option ScriptLine :=
  match operands with
  | [] => if name == asciiBytes "reset" then some .reset
    else if name == asciiBytes "ldmsg" then some (.ldmsg [])
    else none
  | [.word w] =>
    if name == asciiBytes "rd" then (parseReg w).map .rd
    else if name == asciiBytes "cmd" then (parseMnemonic w).map .cmd
    else if name == asciiBytes "ldkey" then (parseHex w).map .ldkey
    else if name == asciiBytes "ldblk" then (parseHex w).map .ldblk
    else if name == asciiBytes "ldtag" then (parseHex w).map .ldtag
    else if name == asciiBytes "ldmsg" then (parseHex w).map .ldmsg
    else none
  | [.text t] => if name == asciiBytes "ldstr" then some (.ldstr t) else none
  | [.word r, .comma, .word v] =>
    if name == asciiBytes "wr" then
      match parseReg r, parseByte v with
      | some r', some v' => some (.wr r' v')
      | some _, none => none
      | none, _ => none
    else none
  | [.word r, .equals, .word h] =>
    if name == asciiBytes "expect" then
      match parseExpectReg r, parseHex h with
      | some r', some h' => some (.expect r' h')
      | some _, none => none
      | none, _ => none
    else none
  | _ => none

/-- What a line of text is. -/
inductive LineText
  /-- Nothing but white space or a comment. -/
  | blank
  /-- A well-formed line. -/
  | line (l : ScriptLine)
  /-- No line of the notation. -/
  | malformed
  deriving DecidableEq, Repr

/-- A line of text (R65). -/
def parseLine (text : List Byte) : LineText :=
  match scanTokens false [] text with
  | none => .malformed
  | some [] => .blank
  | some (.word name :: operands) =>
    match lineOfTokens name operands with
    | some l => if l.wf then .line l else .malformed
    | none => .malformed
  | some (_ :: _) => .malformed

/-- A script from its lines of text; `none` when a line is malformed (R65). -/
def parseScript : List (List Byte) → Option (List ScriptLine)
  | [] => some []
  | text :: rest =>
    match parseLine text with
    | .blank => parseScript rest
    | .line l => (parseScript rest).map (l :: ·)
    | .malformed => none

end Sys2Proof.Machine
end

