-- ==== Sys2Proof/Tests/Slice0.lean ====
section
/-! SUPPORT. The model's own tests. Expected values are the spec's: the tables and worked examples of spec/95_test_vectors.md
and of the rules named in the comments, and the opcode column of spec/opcode_table.json. The second half shows, for every
statement with hypotheses, concrete values that meet them. -/

namespace Sys2Proof.Tests

open Sys2Proof Sys2Proof.Machine

/-! ### Helpers -/

/-- A property of the next state, false when there is none. -/
def nextHas (o : Host.Outcome State Fault Refusal) (p : State → Bool) : Bool :=
  match o with
  | .next s => p s
  | .fault _ => false
  | .refused _ => false

/-- The 36 characters of a UUID text. -/
def textOf (t : String) : UuidText := Vector.ofFn fun p => (asciiBytes t).getD p 0

/-- The document's example UUID (spec/40_uuid_parse.md R75). -/
def exampleText : UuidText := textOf "6ba7b810-9dad-11d1-80b4-00c04fd430c8"

/-- The reset state with a string of 36 characters. -/
def withText (t : UuidText) : State := (State.reset.setStr t).setStrlen 36

/-- The key of the published examples (spec/42_cmac.md R125). -/
def exampleKey : Block :=
  #v[0x2B, 0x7E, 0x15, 0x16, 0x28, 0xAE, 0xD2, 0xA6, 0xAB, 0xF7, 0x15, 0x88, 0x09, 0xCF, 0x4F, 0x3C]

/-- The first block of the published message (R125). -/
def exampleBlock : Block :=
  #v[0x6B, 0xC1, 0xBE, 0xE2, 0x2E, 0x40, 0x9F, 0x96, 0xE9, 0x3D, 0x7E, 0x11, 0x73, 0x93, 0x17, 0x2A]

/-- A tag with six different first bytes. -/
def exampleTag : Block :=
  #v[0x41, 0xA5, 0x1E, 0xAD, 0x7C, 0x2B, 0x80, 0x35, 0x95, 0x7A, 0x0E, 0xA7, 0x83, 0xBC, 0x0F, 0x30]

/-- The reset state with one transaction of the host. -/
def pendingOne (t : Transaction) : State := State.reset.setPending [t]

/-! ### WellFormed: an ill-formed term for each check -/

theorem test_wf_refuses_offset_beyond_buffer : (ScriptLine.wr (.buffer .key 16) 0).wf = false := by decide
theorem test_wf_refuses_read_beyond_buffer : (ScriptLine.rd (.buffer .addr 6)).wf = false := by decide
theorem test_wf_refuses_short_key : (ScriptLine.ldkey [0x2B]).wf = false := by decide
theorem test_wf_refuses_short_block : (ScriptLine.ldblk [0x2B]).wf = false := by decide
theorem test_wf_refuses_short_tag : (ScriptLine.ldtag []).wf = false := by decide
theorem test_wf_refuses_long_message : (ScriptLine.ldmsg (List.replicate 65 0)).wf = false := by decide
theorem test_wf_refuses_empty_expect : (ScriptLine.expect .status []).wf = false := by decide
theorem test_wf_refuses_long_expect : (ScriptLine.expect (.buffer .addr 0) (List.replicate 7 0)).wf = false := by decide
theorem test_wf_expect_at_a_bare_address :
    (ScriptLine.expect (.address 0x10) (List.replicate 16 0)).wf = true ∧
    (ScriptLine.expect (.address 0xFE) [0, 0]).wf = true ∧ (ScriptLine.expect (.address 0xFE) [0, 0, 0]).wf = false := by
  decide
theorem test_wf_refuses_read_word_with_data : wordCanonical 0x00101 = false := by decide
theorem test_wf_accepts_longest_message : (ScriptLine.ldmsg (List.replicate 64 0)).wf = true := by decide

/-! ### Decoding: a word of every command, from the `encoding` column of the opcode table -/

theorem test_decode_parse : decode 0b00000001 = .ok .parse := by decide
theorem test_decode_ecbenc : decode 0b00000010 = .ok .ecbenc := by decide
theorem test_decode_cmac : decode 0b00000011 = .ok .cmac := by decide
theorem test_decode_extract : decode 0b00000100 = .ok .extract := by decide
theorem test_decode_derive : decode 0b00000101 = .ok .derive := by decide
theorem test_decode_clear : decode 0b00000110 = .ok .clear := by decide
theorem test_decode_zero_illegal : decode 0x00 = .error (.illegal 0x00) := by decide
theorem test_decode_seven_illegal : decode 0x07 = .error (.illegal 0x07) := by decide
theorem test_decodeTableWord_rejects_two_bytes : decodeTableWord 16 0x0101 = none := by decide

/-- R64: `Write(0x00, 0x05)` is `0x10005`, `Read(0x01)` is `0x00100`. -/
theorem test_transaction_words :
    encodeTransaction (.write 0x00 0x05) = some 0x10005 ∧ encodeTransaction (.read 0x01) = some 0x00100 := by decide

/-! ### The cipher (spec/95_test_vectors.md 2.1 to 2.8) -/

theorem test_xtime : xtime 0x57 = 0xAE ∧ xtime 0xAE = 0x47 ∧ xtime 0x80 = 0x1B ∧ xtime 0xFF = 0xE5 := by decide
theorem test_gfMul : gfMul 0x57 0x83 = 0xC1 ∧ gfMul 0x57 0x13 = 0xFE := by decide
theorem test_gfInv : gfInv 0x53 = 0xCA ∧ gfInv 0x10 = 0x74 := by decide +kernel
theorem test_sbox : sbox 0x00 = 0x63 ∧ sbox 0x53 = 0xED ∧ sbox 0x9A = 0xB8 ∧ sbox 0xFF = 0x16 := by decide
theorem test_shiftRows : shiftRows #v[0, 1, 2, 3, 4, 5, 6, 7, 8, 9, 10, 11, 12, 13, 14, 15] =
    #v[0, 5, 10, 15, 4, 9, 14, 3, 8, 13, 2, 7, 12, 1, 6, 11] := by decide
theorem test_mixColumns : mixColumns #v[0xDB, 0x13, 0x53, 0x45, 0xF2, 0x0A, 0x22, 0x5C, 1, 1, 1, 1, 0xD4, 0xBF, 0x5D, 0x30] =
    #v[0x8E, 0x4D, 0xA1, 0xBC, 0x9F, 0xDC, 0x58, 0x9D, 1, 1, 1, 1, 0x04, 0x66, 0x81, 0xE5] := by decide +kernel
theorem test_roundKey_last : roundKey exampleKey 10 =
    #v[0xD0, 0x14, 0xF9, 0xA8, 0xC9, 0xEE, 0x25, 0x89, 0xE1, 0x3F, 0x0C, 0xC8, 0xB6, 0x63, 0x0C, 0xA6] := by
  decide +kernel

/-- The published example of R103. -/
theorem test_aes : aes exampleKey
      #v[0x32, 0x43, 0xF6, 0xA8, 0x88, 0x5A, 0x30, 0x8D, 0x31, 0x31, 0x98, 0xA2, 0xE0, 0x37, 0x07, 0x34] =
    #v[0x39, 0x25, 0x84, 0x1D, 0x02, 0xDC, 0x09, 0xFB, 0xDC, 0x11, 0x85, 0x97, 0x19, 0x6A, 0x0B, 0x32] := by
  decide +kernel

theorem test_dbl_top_bit : dbl (Vector.replicate 16 0xFF) =
    #v[0xFF, 0xFF, 0xFF, 0xFF, 0xFF, 0xFF, 0xFF, 0xFF, 0xFF, 0xFF, 0xFF, 0xFF, 0xFF, 0xFF, 0xFF, 0x79] := by
  decide +kernel

/-! ### The commands, one step each -/

/-- R85. -/
theorem test_parse_example : nextHas (exec .parse (withText exampleText)) (fun t =>
    t.key == #v[0x6B, 0xA7, 0xB8, 0x10, 0x9D, 0xAD, 0x11, 0xD1, 0x80, 0xB4, 0x00, 0xC0, 0x4F, 0xD4, 0x30, 0xC8] &&
      t.status == 0x01) = true := by decide +kernel

/-- R85: the digit `g` at position 35, with a key that must stay. -/
theorem test_parse_bad_digit :
    nextHas (exec .parse ((withText (textOf "6ba7b810-9dad-11d1-80b4-00c04fd430cg")).setKey exampleKey)) (fun t =>
      t.key == exampleKey && t.status == 0x12) = true := by decide +kernel

/-- R105, the worked example. -/
theorem test_ecbenc : nextHas (exec .ecbenc ((State.reset.setKey exampleKey).setBlkin exampleBlock)) (fun t =>
    t.blkout == #v[0x3A, 0xD7, 0x7B, 0xB4, 0x0D, 0x7A, 0x36, 0x60, 0xA8, 0x9E, 0xCA, 0xF3, 0x24, 0x66, 0xEF, 0x97] &&
      t.status == 0x01) = true := by decide +kernel

/-- R125, 16 bytes: the complete last block uses `K1`. -/
theorem test_cmac_one_block :
    nextHas (exec .cmac (((State.reset.setKey exampleKey).setMsg (Vector.ofFn fun i => exampleBlock.toList.getD i 0)).setMsglen 16))
      (fun t => t.tag ==
        #v[0x07, 0x0A, 0x16, 0xB4, 0x6B, 0x4D, 0x41, 0x44, 0xF7, 0x9B, 0xDD, 0x9D, 0xD0, 0x4A, 0x28, 0x7C]) = true := by
  decide +kernel

/-- R124: `MSGLEN = 65` raises `BadLength` and leaves the tag. -/
theorem test_cmac_bad_length : nextHas (exec .cmac ((State.reset.setTag exampleTag).setMsglen 65)) (fun t =>
    t.tag == exampleTag && t.status == 0x32) = true := by decide +kernel

/-- R135, the worked example. -/
theorem test_extract : nextHas (exec .extract (State.reset.setTag exampleTag)) (fun t =>
    t.addr == #v[0xEB, 0x7C, 0xAD, 0x1E, 0xA5, 0x41] && t.status == 0x01) = true := by decide +kernel

/-- R139, the worked example. -/
theorem test_derive_example : nextHas (exec .derive (withText exampleText)) (fun t =>
    t.addr == #v[0xDF, 0x87, 0xE6, 0xAB, 0xC9, 0x3F] && t.status == 0x01) = true := by decide +kernel

/-- R139: straight after reset, ParseError, and an older address stays. -/
theorem test_derive_after_reset :
    nextHas (exec .derive (State.reset.setAddr #v[0xE6, 1, 2, 3, 4, 5])) (fun t =>
      t.addr == #v[0xE6, 1, 2, 3, 4, 5] && t.status == 0x12) = true := by decide +kernel

/-- R146. -/
theorem test_clear : nextHas (exec .clear (((withText exampleText).setTag exampleTag).setMsglen 7)) (fun t =>
    t == State.reset.setStatus 0x01) = true := by decide +kernel

/-! ### Transactions, one step each (spec/95_test_vectors.md 8.2, 8.3) -/

theorem test_write_last_str_byte : nextHas (step (pendingOne (.write 0x83 0x38))) (fun t =>
    t.str[35] == 0x38 && t.pending == []) = true := by decide +kernel
theorem test_write_last_msg_byte : nextHas (step (pendingOne (.write 0xCF 0x10))) (fun t => t.msg[63] == 0x10) = true := by
  decide +kernel
theorem test_write_status_ignored : nextHas (step (pendingOne (.write 0x01 0x01))) (fun t => t.status == 0) = true := by
  decide +kernel
theorem test_read_appends_reply : nextHas (step ((pendingOne (.read 0x45)).setTag exampleTag)) (fun t =>
    t.replies == [0x2B] && t.tag == exampleTag) = true := by decide +kernel
theorem test_illegal_opcode : nextHas (step (pendingOne (.write 0x00 0x07))) (fun t => t.status == 0x22) = true := by
  decide +kernel
theorem test_reset_transaction : nextHas (step ((pendingOne .reset).setKey exampleKey)) (fun t => t == State.reset) = true := by
  decide +kernel

/-! ### The host's notation (spec/30_encoding.md R65, R66; spec/43_extract_derive.md R145) -/

theorem test_script_text : parseLine (asciiBytes "wr KEY+3, 0x16   ; a key byte") = .line (.wr (.buffer .key 3) 0x16) := by
  decide +kernel
theorem test_script_text_expect :
    parseLine (asciiBytes "expect ADDR = EB7CAD1EA541") =
      .line (.expect (.buffer .addr 0) [0xEB, 0x7C, 0xAD, 0x1E, 0xA5, 0x41]) := by decide +kernel
theorem test_script_text_malformed : parseLine (asciiBytes "wr KEY+16, 0x16") = .malformed := by decide +kernel
theorem test_ldstr_short : scriptWords [.ldstr [0x6E, 0x6F]] = [0x1606E, 0x1616F, 0x10202] := by decide +kernel
theorem test_display : formatAddr #v[0xDF, 0x87, 0xE6, 0xAB, 0xC9, 0x3F] = asciiBytes "df:87:e6:ab:c9:3f" := by
  decide +kernel

/-! ### Values that meet the hypotheses of the statements -/

theorem witness_DecodeAndEncodeAgree : Instr.wf .derive = true ∧ decode 0x05 = .ok .derive := by decide

theorem witness_TransactionWordFormat : (0x00137 : BitVec 17).toNat = 0x100 * (0x01 : Byte).toNat + (0x37 : Byte).toNat := by
  decide

theorem witness_TransactionWordsRoundTrip :
    encodeTransaction (.write 0xFF 0xFF) = some 0x1FFFF ∧ wordCanonical 0x1FFFF = true ∧ wordCanonical 0x0FF00 = true := by
  decide

theorem witness_ScriptWordsDenoteTheScript : ScriptLine.reset ∉ [ScriptLine.ldstr [0x61], .cmd .derive, .rd .status] := by
  decide

theorem witness_StepIdlesWithoutTransaction : State.reset.pending = [] := rfl

theorem witness_StepRunsTheDecodedCommand :
    (pendingOne (.write 0x00 0x06)).pending = .write 0x00 0x06 :: [] ∧ decode 0x06 = .ok .clear := by decide

theorem witness_IllegalOpcodeWritesStatusOnly :
    (pendingOne (.write 0x00 0x00)).pending = .write 0x00 0x00 :: [] ∧
      ((0xFF : Byte) = 0x00 ∨ 0x07 ≤ (0xFF : Byte).toNat) ∧ ((0x07 : Byte) = 0x00 ∨ 0x07 ≤ (0x07 : Byte).toNat) := by decide

theorem witness_ReadReturnsTheByteAndChangesNothing : (pendingOne (.read 0xFF)).pending = .read 0xFF :: [] := rfl

/-- The ends of every range of R43. -/
theorem witness_WindowFollowsTheAddressMap :
    ∀ a ∈ [0x04, 0x0F, 0x56, 0x5F, 0x84, 0x8F, 0xD0, (0xFF : Byte)], reservedAddress a := by decide +kernel

theorem witness_DataWriteSetsExactlyOneByte :
    ∀ a ∈ [0x02, 0x03, 0x10, 0x2F, 0x40, 0x4F, 0x60, 0x83, 0x90, (0xCF : Byte)],
      (pendingOne (.write a 0xAA)).pending = .write a 0xAA :: [] ∧ readWriteAddress a := by decide +kernel

theorem witness_OtherWritesAreIgnored :
    (∀ a ∈ [0x01, 0x04, 0x0F, 0x30, 0x3F, 0x50, 0x55, 0x56, 0x5F, 0x84, 0x8F, 0xD0, (0xFF : Byte)],
      (pendingOne (.write a 0xAA)).pending = .write a 0xAA :: [] ∧ a ≠ 0x00 ∧ ¬ readWriteAddress a) ∧
    (pendingOne (.read 0x04)).pending = .read 0x04 :: [] ∧ reservedAddress 0x04 := by decide +kernel

theorem witness_DataWritesCommute : (0x10 : Byte) ≠ 0x11 := by decide

theorem witness_RepeatedTransactionChangesNothing :
    (∃ t, transact (.write 0x00 0x04) State.reset = .next t) ∧ (∃ t, transact (.write 0x10 0xAA) State.reset = .next t) ∧
      (∃ t, transact .reset State.reset = .next t) ∧ (∃ t, transact (.read 0x10) State.reset = .next t) :=
  ⟨⟨_, rfl⟩, ⟨_, rfl⟩, ⟨_, rfl⟩, ⟨_, rfl⟩⟩

theorem witness_WindowShowsEveryRegister : ∀ a : Byte, hostRead a State.reset = hostRead a (pendingOne .reset) := by
  intro a; exact (hostRead_setPending a State.reset _).symm

theorem witness_ResetTransactionRestoresReset : (pendingOne .reset).pending = .reset :: [] := rfl

theorem witness_StatusValuesAndFields :
    ∀ v ∈ [0x00, 0x01, 0x12, 0x22, (0x32 : Byte)], legalStatus v = true := by decide

theorem witness_ErrorReplacesStatusOnly :
    ∃ t, exec .parse State.reset = .next t ∧ errFlag t.status = true := ⟨_, rfl, by decide⟩

/-- Every command answers a next state; used by the statements about any command. -/
theorem witness_EachCommandHasItsOwnErrors : ∀ i ∈ allCommands, nextHas (exec i State.reset) (fun _ => true) = true := by
  decide +kernel

theorem witness_CommandsWriteOnlyTheirRegisters :
    (∃ t, exec .extract State.reset = .next t) ∧ ¬ commandMayWrite .extract 0x10 := by
  refine ⟨⟨_, rfl⟩, ?_⟩
  simp [commandMayWrite]

/-- Two different states that share the operands of `EXTRACT`, and an address that `EXTRACT` writes. -/
theorem witness_CommandsDependOnTheirOperandsOnly :
    sameOperands .extract State.reset (State.reset.setTag (zeroBlock.set 6 0xFF)) ∧
      (∃ t, exec .extract State.reset = .next t ∧ t.status = 0x01) ∧
      (∃ t, exec .extract (State.reset.setTag (zeroBlock.set 6 0xFF)) = .next t) ∧ commandMayWrite .extract 0x50 := by
  refine ⟨?_, ⟨_, rfl, by decide⟩, ⟨_, rfl⟩, by simp [commandMayWrite]⟩
  simp only [sameOperands]
  decide

/-- Two different states that share the operands of `PARSE`: the string is not read when the length is wrong. -/
theorem witness_CommandsDependOnTheirOperandsOnly_parse :
    sameOperands .parse State.reset (State.reset.setStr exampleText) := by
  simp only [sameOperands]; decide

/-- A text the parser accepts, and the same text with its letters in lower case. -/
theorem witness_ParserIgnoresCase :
    ∀ p : Fin 36,
      (textOf "6ba7b810-9dad-11d1-80b4-00c04fd430c8")[p] = (textOf "6BA7B810-9DAD-11D1-80B4-00C04FD430C8")[p] ∨
        (0x41 ≤ ((textOf "6BA7B810-9DAD-11D1-80B4-00C04FD430C8")[p]).toNat ∧
          ((textOf "6BA7B810-9DAD-11D1-80B4-00C04FD430C8")[p]).toNat ≤ 0x46 ∧
          (textOf "6ba7b810-9dad-11d1-80b4-00c04fd430c8")[p] = (textOf "6BA7B810-9DAD-11D1-80B4-00C04FD430C8")[p] + 0x20) := by
  decide +kernel

theorem witness_ParserAcceptsExactlyTheCanonicalForm :
    parseUuid 36 (textOf "00112233-4455-6677-8899-AABBCCDDEEFF") =
      some #v[0x00, 0x11, 0x22, 0x33, 0x44, 0x55, 0x66, 0x77, 0x88, 0x99, 0xAA, 0xBB, 0xCC, 0xDD, 0xEE, 0xFF] := by
  decide +kernel

theorem witness_ParseCommand :
    (∃ k, parseUuid (withText exampleText).strlen (withText exampleText).str = some k) ∧
      parseUuid State.reset.strlen State.reset.str = none := by
  refine ⟨?_, by decide +kernel⟩
  exact Option.isSome_iff_exists.1 (by decide +kernel)

/-- `DERIVE` has the same two cases as `PARSE`. -/
theorem witness_DeriveCommand :
    (∃ k, parseUuid (withText exampleText).strlen (withText exampleText).str = some k) ∧
      parseUuid State.reset.strlen State.reset.str = none := witness_ParseCommand

theorem witness_SboxTableIsItsConstruction : (0x53 : Byte) ≠ 0x00 ∧ gfMul 0x53 0xCA = 0x01 := by decide

theorem witness_KeyExpansionRecurrence : (1 ≤ 10) ∧ (4 ≤ 4 ∧ 4 < 44) ∧ (4 ≤ 43 ∧ 43 < 44) := by decide

theorem witness_IntegerViewOfABlock : (2 ^ 128 - 1 : Nat) < 2 ^ 128 := by decide

theorem witness_SplittingCoversTheMessage :
    ([0x61] : List Byte) ≠ [] ∧ (0 : Nat) < blockCount (List.replicate 17 (0 : Byte)).length - 1 := by decide

theorem witness_PaddingBytes : Config.label.length ≤ 15 ∧ (List.replicate 15 (0 : Byte)).length ≤ 15 := by decide

theorem witness_CmacChainsBlocks :
    ([] : List Byte).length ≤ 16 ∧ 0 < exampleBlock.toList.length ∧ exampleBlock.toList.length ≤ 16 := by decide

theorem witness_CmacCommand :
    (State.reset.setMsglen 64).msglen.toNat ≤ 64 ∧ 64 < (State.reset.setMsglen 65).msglen.toNat := by decide

theorem witness_DeriveEqualsItsStages :
    (∃ p d, exec .parse (withText exampleText) = .next p ∧ p.status = 0x01 ∧ exec .derive (withText exampleText) = .next d) ∧
      (∃ p d, exec .parse State.reset = .next p ∧ p.status ≠ 0x01 ∧ exec .derive State.reset = .next d) := by
  obtain ⟨k, hk⟩ := witness_ParseCommand.1
  have hp : exec .parse (withText exampleText) = .next (((withText exampleText).setKey k).setStatus statusOk) := by
    simp [exec, execParse, hk]
  have hd : ∃ d, exec .derive (withText exampleText) = .next d := by
    simp [exec, execDerive, deriveAll, hk]
  exact ⟨⟨_, hd.choose, hp, rfl, hd.choose_spec⟩, ⟨_, _, rfl, by decide, rfl⟩⟩

theorem witness_DerivedAddressHasTopBits :
    (∃ t, exec .derive (withText exampleText) = .next t ∧ t.status = 0x01) ∧ (∃ t, exec .extract State.reset = .next t) := by
  obtain ⟨k, hk⟩ := witness_ParseCommand.1
  refine ⟨?_, ⟨_, rfl⟩⟩
  simp [exec, execDerive, deriveAll, hk, statusOk]

/-- A state that is not the reset state meets the invariant, with an address in place and an error recorded. -/
theorem witness_StepKeepsTheInvariant :
    (((pendingOne (.write 0x00 0x05)).setAddr #v[0xEB, 0x7C, 0xAD, 0x1E, 0xA5, 0x41]).setStatus 0x12).Inv ∧
      ∃ t, step (((pendingOne (.write 0x00 0x05)).setAddr #v[0xEB, 0x7C, 0xAD, 0x1E, 0xA5, 0x41]).setStatus 0x12) = .next t :=
  ⟨⟨by decide +kernel, by decide +kernel⟩, ⟨_, rfl⟩⟩

/-- Every row of the count of `CMAC` at both ends, and both cases of `DERIVE`. -/
theorem witness_CipherEvaluationCounts :
    ([0, 16, 17, 32, 33, 48, 49, 64, 65, (255 : Byte)].map fun l =>
        (commandCipherCalls .cmac (State.reset.setMsglen l)).length) = [2, 2, 3, 3, 4, 4, 5, 5, 0, 0] ∧
      (commandCipherCalls .derive (withText exampleText)).length = 2 ∧
      commandCipherCalls .derive State.reset = [] := by
  refine ⟨by decide +kernel, by decide +kernel, by decide +kernel⟩

theorem witness_RunsStaySafe : State.reset.Inv := ⟨by decide, by decide +kernel⟩

end Sys2Proof.Tests
end

section
/-! SUPPORT. The 128-bit integer view of a block (spec/00_scope.md R10): the big-endian integer is Mathlib's little-endian
base-256 equivalence `finFunctionFinEquiv`, read from the last byte to the first. -/

namespace Sys2Proof.Machine

/-- The digits of `blockInt`, least significant first: digit `j` is byte `15 - j`. -/
def blockDigits (b : Block) : Fin 16 → Fin (2 ^ 8) := fun j => b[j.rev].toFin

/-- The big-endian fold over any number of bytes is the weighted sum of the bytes. -/
theorem foldl_bytes_eq_sum {n : Nat} (f : Fin n → Byte) :
    (List.ofFn f).foldl (fun acc b => acc * 256 + b.toNat) 0 = ∑ i : Fin n, (f i).toNat * 2 ^ (8 * (n - 1 - i.val)) := by
  induction n with
  | zero => rfl
  | succ n ih =>
    have hweight : ∀ i : Fin n, 2 ^ (8 * (n + 1 - 1 - i.val)) = 2 ^ (8 * (n - 1 - i.val)) * 256 := fun i => by
      rw [show 8 * (n + 1 - 1 - i.val) = 8 * (n - 1 - i.val) + 8 by omega, pow_add]
      rfl
    rw [List.ofFn_succ', List.concat_eq_append, List.foldl_append, ih, Fin.sum_univ_castSucc]
    simp only [Fin.val_castSucc, hweight, ← mul_assoc, ← Finset.sum_mul]
    simp

theorem blockInt_eq_sum (b : Block) : blockInt b = ∑ i : Fin 16, b[i].toNat * 2 ^ (8 * (15 - i.val)) := by
  have hbytes : b.toList = List.ofFn fun i : Fin 16 => b[i] :=
    List.ext_getElem (by simp) fun i hi _ => by rw [Vector.getElem_toList, List.getElem_ofFn]; rfl
  rw [blockInt, hbytes, foldl_bytes_eq_sum]

/-- Reversed, a byte stands at the place its weight names. -/
theorem fifteen_sub_rev (j : Fin 16) : 15 - j.rev.val = j.val := by
  rw [Fin.val_rev]; omega

theorem blockInt_eq_digits (b : Block) : blockInt b = (finFunctionFinEquiv (blockDigits b)).val := by
  rw [blockInt_eq_sum, finFunctionFinEquiv_apply, ← Equiv.sum_comp Fin.revPerm]
  refine Finset.sum_congr rfl fun j _ => ?_
  rw [Fin.revPerm_apply, fifteen_sub_rev, pow_mul]
  rfl

theorem blockDigits_bytes16 (v : Nat) (h : v < (2 ^ 8) ^ 16) :
    blockDigits (bytes16 v) = finFunctionFinEquiv.symm ⟨v, h⟩ := by
  funext j
  apply Fin.ext
  have hbyte : (bytes16 v)[j.rev] = BitVec.ofNat 8 (v / 2 ^ (8 * (15 - j.rev.val))) := Vector.getElem_ofFn _
  rw [blockDigits, hbyte, fifteen_sub_rev, pow_mul]
  rfl

theorem blockDigits_injective : Function.Injective blockDigits := fun a b h => by
  apply Vector.ext
  intro i hi
  have hbyte : a[i].toFin = b[i].toFin := by simpa [blockDigits] using congrFun h (Fin.rev ⟨i, hi⟩)
  exact BitVec.toFin_inj.1 hbyte

theorem blockInt_lt (b : Block) : blockInt b < 2 ^ 128 := by
  rw [blockInt_eq_digits]
  exact (finFunctionFinEquiv (blockDigits b)).isLt

theorem bytes16_blockInt (b : Block) : bytes16 (blockInt b) = b := by
  apply blockDigits_injective
  rw [blockDigits_bytes16 _ (blockInt_lt b), Equiv.symm_apply_eq]
  exact Fin.ext (blockInt_eq_digits b)

theorem blockInt_bytes16 (v : Nat) (h : v < 2 ^ 128) : blockInt (bytes16 v) = v := by
  rw [blockInt_eq_digits, blockDigits_bytes16 v h, Equiv.apply_symm_apply]

/-- Settles O39, by the base-256 digits of the integer. -/
theorem integerViewOfABlock : Obligations.IntegerViewOfABlock :=
  ⟨blockInt_eq_sum, fun b => ⟨blockInt_lt b, bytes16_blockInt b⟩, blockInt_bytes16⟩

end Sys2Proof.Machine
end

section
/-! SUPPORT. What each command leaves, an equation per case of its meaning, and the registers at the addresses that a
command writes. -/

namespace Sys2Proof.Machine

theorem exec_parse_of_some {s : State} {k : Block} (h : parseUuid s.strlen s.str = some k) :
    exec .parse s = .next ((s.setKey k).setStatus statusOk) := by
  simp [exec, execParse, h]

theorem exec_parse_of_none {s : State} (h : parseUuid s.strlen s.str = none) :
    exec .parse s = .next (s.setStatus (statusOfErr .parseError)) := by
  simp [exec, execParse, h]

theorem exec_ecbenc (s : State) : exec .ecbenc s = .next ((s.setBlkout (aes s.key s.blkin)).setStatus statusOk) := rfl

theorem exec_cmac_of_le {s : State} (h : s.msglen.toNat ≤ 64) :
    exec .cmac s = .next ((s.setTag (cmac s.key (messageOperand s))).setStatus statusOk) := by
  simp [exec, execCmac, messageTooLong, h]

theorem exec_cmac_of_gt {s : State} (h : 64 < s.msglen.toNat) :
    exec .cmac s = .next (s.setStatus (statusOfErr .badLength)) := by
  simp [exec, execCmac, messageTooLong, h]

theorem exec_extract (s : State) : exec .extract s = .next ((s.setAddr (extractAddress s.tag)).setStatus statusOk) := rfl

theorem exec_derive_of_some {s : State} {k : Block} (h : parseUuid s.strlen s.str = some k) :
    exec .derive s = .next ((((s.setKey k).setTag (cmac k Config.label)).setAddr
      (extractAddress (cmac k Config.label))).setStatus statusOk) := by
  simp [exec, execDerive, deriveAll, h]

theorem exec_derive_of_none {s : State} (h : parseUuid s.strlen s.str = none) :
    exec .derive s = .next (s.setStatus (statusOfErr .parseError)) := by
  simp [exec, execDerive, deriveAll, h]

theorem exec_clear (s : State) : exec .clear s = .next ((zeroRegisters s).setStatus statusOk) := rfl

/-- A read at the address of a location returns the byte that stands there. -/
theorem hostRead_of_address {a : Byte} {l : Loc} (h : l.address = some a.toNat) (s : State) :
    hostRead a s = loadByte l s := by
  have hloc : locate a = l := by simpa using locate_address l a.toNat h
  rw [hostRead, hloc]

theorem hostRead_status {a : Byte} (ha : a.toNat = 0x01) (s : State) : hostRead a s = s.status :=
  hostRead_of_address (l := .status) (by simp [Loc.address, ha]) s

theorem hostRead_key {a : Byte} (ha : 0x10 ≤ a.toNat ∧ a.toNat ≤ 0x1F) (s : State) :
    hostRead a s = s.key[a.toNat - 0x10] :=
  hostRead_of_address (l := .key ⟨a.toNat - 0x10, by omega⟩) (by simp [Loc.address, ha]) s

theorem hostRead_blkout {a : Byte} (ha : 0x30 ≤ a.toNat ∧ a.toNat ≤ 0x3F) (s : State) :
    hostRead a s = s.blkout[a.toNat - 0x30] :=
  hostRead_of_address (l := .blkout ⟨a.toNat - 0x30, by omega⟩) (by simp [Loc.address, ha]) s

theorem hostRead_tag {a : Byte} (ha : 0x40 ≤ a.toNat ∧ a.toNat ≤ 0x4F) (s : State) :
    hostRead a s = s.tag[a.toNat - 0x40] :=
  hostRead_of_address (l := .tag ⟨a.toNat - 0x40, by omega⟩) (by simp [Loc.address, ha]) s

theorem hostRead_addr {a : Byte} (ha : 0x50 ≤ a.toNat ∧ a.toNat ≤ 0x55) (s : State) :
    hostRead a s = s.addr[a.toNat - 0x50] :=
  hostRead_of_address (l := .addr ⟨a.toNat - 0x50, by omega⟩) (by simp [Loc.address, ha]) s

end Sys2Proof.Machine
end

section
/-! SUPPORT. Noninterference of the commands (spec/00_scope.md R15, spec/10_state.md R30): the functions behind the commands
depend on the operands only, and so does what a command leaves. -/

namespace Sys2Proof.Machine

/-- The parser looks at the text only when the length is right (spec/40_uuid_parse.md R79). -/
theorem parseUuid_congr {len : Byte} {x y : UuidText} (h : len = 36 → x = y) : parseUuid len x = parseUuid len y := by
  by_cases hlen : len = 36
  · rw [h hlen]
  · have hwrong : len.toNat ≠ Config.strBytes := fun he => hlen (BitVec.eq_of_toNat_eq he)
    simp [parseUuid, hwrong]

/-- The message is the first `MSGLEN` bytes of `MSG`. -/
theorem messageOperand_congr {s t : State} (hlen : s.msglen = t.msglen)
    (hmsg : ∀ j : Fin 64, j.val < s.msglen.toNat → s.msg[j] = t.msg[j]) : messageOperand s = messageOperand t := by
  apply List.ext_getElem
  · simp [messageOperand, hlen]
  · intro j hj _
    obtain ⟨hjlen, hj64⟩ : j < s.msglen.toNat ∧ j < 64 := by simpa [messageOperand] using hj
    simpa [messageOperand] using hmsg ⟨j, hj64⟩ hjlen

/-- The extraction starts from the first six bytes of the tag (spec/43_extract_derive.md R130). -/
theorem extractAddress_congr {t u : Block} (h : ∀ j : Fin 16, j.val ≤ 5 → t[j] = u[j]) :
    extractAddress t = extractAddress u := by
  have hsix : firstSix t = firstSix u := by
    apply Vector.ext
    intro i hi
    simpa [firstSix] using h ⟨i, by omega⟩ (by simp; omega)
  rw [extractAddress, hsix, extractAddress]

/-- The outcomes of one command in two runs look the same to the host where the command may have written: the same `STATUS`,
and on success the same byte at every address the command may write. -/
def SameOutcome (i : Instr) (s t : State) : Prop :=
  s.status = t.status ∧ (s.status = 0x01 → ∀ a : Byte, commandMayWrite i a → hostRead a s = hostRead a t)

theorem statusOfErr_ne_ok (e : Err) : statusOfErr e ≠ 0x01 := by
  cases e <;> simp

theorem sameOutcome_of_err (i : Instr) (e : Err) (s t : State) :
    SameOutcome i (s.setStatus (statusOfErr e)) (t.setStatus (statusOfErr e)) :=
  ⟨rfl, fun hok => absurd hok (statusOfErr_ne_ok e)⟩

theorem sameOutcome_of_ok {i : Instr} {s t : State}
    (h : ∀ a, commandMayWrite i a → hostRead a (s.setStatus statusOk) = hostRead a (t.setStatus statusOk)) :
    SameOutcome i (s.setStatus statusOk) (t.setStatus statusOk) :=
  ⟨rfl, fun _ => h⟩

section Noninterference

variable {s t s' t' : State}

theorem parse_sameOutcome (h : sameOperands .parse s t) (hs : exec .parse s = .next s') (ht : exec .parse t = .next t') :
    SameOutcome .parse s' t' := by
  obtain ⟨hlen, hstr⟩ := h
  have hparse : parseUuid s.strlen s.str = parseUuid t.strlen t.str := hlen ▸ parseUuid_congr hstr
  cases hk : parseUuid t.strlen t.str with
  | none =>
    cases hs.symm.trans (exec_parse_of_none (hparse.trans hk))
    cases ht.symm.trans (exec_parse_of_none hk)
    exact sameOutcome_of_err ..
  | some k =>
    cases hs.symm.trans (exec_parse_of_some (hparse.trans hk))
    cases ht.symm.trans (exec_parse_of_some hk)
    refine sameOutcome_of_ok fun a ha => ?_
    rcases ha with hstatus | hkey
    · simp [hostRead_status hstatus]
    · simp [hostRead_key hkey]

theorem ecbenc_sameOutcome (h : sameOperands .ecbenc s t) (hs : exec .ecbenc s = .next s')
    (ht : exec .ecbenc t = .next t') : SameOutcome .ecbenc s' t' := by
  obtain ⟨hkey, hblkin⟩ := h
  cases hs.symm.trans (exec_ecbenc s)
  cases ht.symm.trans (exec_ecbenc t)
  refine sameOutcome_of_ok fun a ha => ?_
  rcases ha with hstatus | hblkout
  · simp [hostRead_status hstatus]
  · simp [hostRead_blkout hblkout, hkey, hblkin]

theorem cmac_sameOutcome (h : sameOperands .cmac s t) (hs : exec .cmac s = .next s') (ht : exec .cmac t = .next t') :
    SameOutcome .cmac s' t' := by
  obtain ⟨hlen, hoperands⟩ := h
  rcases Nat.lt_or_ge 64 s.msglen.toNat with hgt | hle
  · cases hs.symm.trans (exec_cmac_of_gt hgt)
    cases ht.symm.trans (exec_cmac_of_gt (hlen ▸ hgt))
    exact sameOutcome_of_err ..
  · obtain ⟨hkey, hmsg⟩ := hoperands hle
    cases hs.symm.trans (exec_cmac_of_le hle)
    cases ht.symm.trans (exec_cmac_of_le (hlen ▸ hle))
    refine sameOutcome_of_ok fun a ha => ?_
    rcases ha with hstatus | htag
    · simp [hostRead_status hstatus]
    · simp [hostRead_tag htag, hkey, messageOperand_congr hlen hmsg]

theorem extract_sameOutcome (h : sameOperands .extract s t) (hs : exec .extract s = .next s')
    (ht : exec .extract t = .next t') : SameOutcome .extract s' t' := by
  cases hs.symm.trans (exec_extract s)
  cases ht.symm.trans (exec_extract t)
  refine sameOutcome_of_ok fun a ha => ?_
  rcases ha with hstatus | haddr
  · simp [hostRead_status hstatus]
  · simp [hostRead_addr haddr, extractAddress_congr h]

theorem derive_sameOutcome (h : sameOperands .derive s t) (hs : exec .derive s = .next s')
    (ht : exec .derive t = .next t') : SameOutcome .derive s' t' := by
  obtain ⟨hlen, hstr⟩ := h
  have hparse : parseUuid s.strlen s.str = parseUuid t.strlen t.str := hlen ▸ parseUuid_congr hstr
  cases hk : parseUuid t.strlen t.str with
  | none =>
    cases hs.symm.trans (exec_derive_of_none (hparse.trans hk))
    cases ht.symm.trans (exec_derive_of_none hk)
    exact sameOutcome_of_err ..
  | some k =>
    cases hs.symm.trans (exec_derive_of_some (hparse.trans hk))
    cases ht.symm.trans (exec_derive_of_some hk)
    refine sameOutcome_of_ok fun a ha => ?_
    rcases ha with hstatus | hkey | htag | haddr
    · simp [hostRead_status hstatus]
    · simp [hostRead_key hkey]
    · simp [hostRead_tag htag]
    · simp [hostRead_addr haddr]

/-- After `CLEAR` two states differ on the host's side only, which the window does not show. -/
theorem clear_sameOutcome (hs : exec .clear s = .next s') (ht : exec .clear t = .next t') : SameOutcome .clear s' t' := by
  cases hs.symm.trans (exec_clear s)
  cases ht.symm.trans (exec_clear t)
  have hcleared : (zeroRegisters s).setStatus statusOk =
      (((zeroRegisters t).setStatus statusOk).setPending s.pending).setReplies s.replies := rfl
  refine sameOutcome_of_ok fun a _ => ?_
  rw [hcleared, hostRead_setReplies, hostRead_setPending]

end Noninterference

/-- Settles O24, command by command. -/
theorem commandsDependOnTheirOperandsOnly : Obligations.CommandsDependOnTheirOperandsOnly := by
  intro i s t s' t' h hs ht
  cases i with
  | parse => exact parse_sameOutcome h hs ht
  | ecbenc => exact ecbenc_sameOutcome h hs ht
  | cmac => exact cmac_sameOutcome h hs ht
  | extract => exact extract_sameOutcome h hs ht
  | derive => exact derive_sameOutcome h hs ht
  | clear => exact clear_sameOutcome hs ht

end Sys2Proof.Machine
end

section
/-! SUPPORT. The invariant of Safety.lean: `ADDR` is written by the extraction and zeroed by `CLEAR` and `Reset` only, and
`STATUS` is written at the end of a command and by `Reset` only (spec/10_state.md R29, R33). -/

namespace Sys2Proof.Machine

theorem addrWellFormed_unfilled : addrWellFormed (Vector.replicate 6 0) = true := by
  simp [addrWellFormed]

/-- Step 5 of the extraction sets the two top bits (spec/43_extract_derive.md R132). -/
theorem addrWellFormed_maskFirst (r : DeviceAddress) : addrWellFormed (maskFirst r) = true := by
  have htop : ∀ x : Byte, (x ||| Config.mask) &&& Config.mask = Config.mask := by decide
  simp [addrWellFormed, maskFirst, htop]

theorem addrWellFormed_extractAddress (t : Block) : addrWellFormed (extractAddress t) = true :=
  addrWellFormed_maskFirst _

/-- The host has read/write access to no byte of `ADDR`. -/
theorem storeByte_addr {l : Loc} (h : l.access = .rw) (v : Byte) (s : State) : (storeByte l v s).addr = s.addr := by
  cases l with
  | addr i => cases h
  | _ => rfl

/-- The host has no read/write access to `STATUS`. -/
theorem storeByte_status {l : Loc} (h : l.access = .rw) (v : Byte) (s : State) : (storeByte l v s).status = s.status := by
  cases l with
  | status => cases h
  | _ => rfl

theorem hostWrite_addr (a v : Byte) (s : State) : (hostWrite a v s).addr = s.addr := by
  rcases hostWrite_cases a v s with ⟨hrw, hw⟩ | ⟨-, hw⟩
  · rw [hw, storeByte_addr hrw]
  · rw [hw]

theorem hostWrite_status (a v : Byte) (s : State) : (hostWrite a v s).status = s.status := by
  rcases hostWrite_cases a v s with ⟨hrw, hw⟩ | ⟨-, hw⟩
  · rw [hw, storeByte_status hrw]
  · rw [hw]

section Invariant

variable {s t : State}

theorem State.Inv.setStatus (hs : s.Inv) {v : Byte} (hv : legalStatus v = true) : (s.setStatus v).Inv :=
  ⟨hv, hs.addr_wf⟩

theorem State.Inv.setAddr (hs : s.Inv) {x : DeviceAddress} (hx : addrWellFormed x = true) : (s.setAddr x).Inv :=
  ⟨hs.status_legal, hx⟩

theorem State.Inv.setKey (hs : s.Inv) (k : Block) : (s.setKey k).Inv := ⟨hs.status_legal, hs.addr_wf⟩

theorem State.Inv.setBlkout (hs : s.Inv) (b : Block) : (s.setBlkout b).Inv := ⟨hs.status_legal, hs.addr_wf⟩

theorem State.Inv.setTag (hs : s.Inv) (b : Block) : (s.setTag b).Inv := ⟨hs.status_legal, hs.addr_wf⟩

theorem State.Inv.setPending (hs : s.Inv) (xs : List Transaction) : (s.setPending xs).Inv :=
  ⟨hs.status_legal, hs.addr_wf⟩

theorem State.Inv.setReplies (hs : s.Inv) (bs : List Byte) : (s.setReplies bs).Inv := ⟨hs.status_legal, hs.addr_wf⟩

theorem State.Inv.zeroRegisters (hs : s.Inv) : (zeroRegisters s).Inv := ⟨hs.status_legal, addrWellFormed_unfilled⟩

/-- A command ends with one of its own values in `STATUS`, and what it puts into `ADDR` is extracted or zero. -/
theorem exec_keeps_inv {i : Instr} (hs : s.Inv) (h : exec i s = .next t) : t.Inv := by
  rcases exec_cases i s t h with ⟨-, k, -, rfl⟩ | ⟨-, rfl⟩ | ⟨-, -, rfl⟩ | ⟨-, rfl⟩ | ⟨-, k, -, rfl⟩ | ⟨-, rfl⟩ |
    ⟨-, -, rfl⟩ | ⟨-, -, rfl⟩ | ⟨-, -, rfl⟩
  · exact (hs.setKey k).setStatus legalStatus_ok
  · exact (hs.setBlkout _).setStatus legalStatus_ok
  · exact (hs.setTag _).setStatus legalStatus_ok
  · exact (hs.setAddr (addrWellFormed_extractAddress _)).setStatus legalStatus_ok
  · exact (((hs.setKey k).setTag _).setAddr (addrWellFormed_extractAddress _)).setStatus legalStatus_ok
  · exact hs.zeroRegisters.setStatus legalStatus_ok
  · exact hs.setStatus (legalStatus_err _)
  · exact hs.setStatus (legalStatus_err _)
  · exact hs.setStatus (legalStatus_err _)

theorem hostWrite_keeps_inv (a v : Byte) (hs : s.Inv) : (hostWrite a v s).Inv :=
  ⟨hostWrite_status a v s ▸ hs.status_legal, hostWrite_addr a v s ▸ hs.addr_wf⟩

theorem resetBlock_inv (s : State) : (resetBlock s).Inv :=
  ⟨rfl, addrWellFormed_unfilled⟩

theorem transact_keeps_inv {x : Transaction} (hs : s.Inv) (h : transact x s = .next t) : t.Inv := by
  rcases transact_cases x s t h with ⟨a, -, rfl⟩ | ⟨a, v, -, -, rfl⟩ | ⟨v, i, -, -, hexec⟩ | ⟨v, w, -, -, rfl⟩ | ⟨-, rfl⟩
  · exact hs.setReplies _
  · exact hostWrite_keeps_inv a v hs
  · exact exec_keeps_inv hs hexec
  · exact hs.setStatus (legalStatus_err _)
  · exact resetBlock_inv s

end Invariant

/-- Settles O56, by what a step can do: nothing, or the oldest transaction, which keeps the invariant. -/
theorem stepKeepsTheInvariant : Obligations.StepKeepsTheInvariant := by
  intro s t hs h
  rcases step_cases s t h with ⟨-, rfl⟩ | ⟨x, xs, -, htransact⟩
  · exact hs
  · exact transact_keeps_inv (hs.setPending xs) htransact

/-- Settles O55: `Reset` leaves the registers of the reset state. -/
theorem resetMeetsTheInvariant : Obligations.ResetMeetsTheInvariant :=
  resetBlock_inv State.reset

end Sys2Proof.Machine
end

section
/-! SUPPORT. The frame of the commands (spec/10_state.md R30): what a setter leaves unchanged in the register window, and
what each command leaves unchanged. -/

namespace Sys2Proof.Machine

section Frame

variable {a : Byte} {s t : State}

/-- An address reads the same in two states that agree on the location whose address it is; a reserved one always reads the
same. -/
theorem hostRead_congr (h : ∀ l : Loc, l.address = some a.toNat → loadByte l t = loadByte l s) :
    hostRead a t = hostRead a s := by
  rcases address_locate a with hreserved | haddress
  · simp [hostRead, hreserved, loadByte]
  · exact h (locate a) haddress

theorem hostRead_setStatus_of_ne (ha : a.toNat ≠ 0x01) (v : Byte) : hostRead a (s.setStatus v) = hostRead a s :=
  hostRead_congr fun l hl => by
    cases l with
    | status => exact absurd (Option.some.inj hl).symm ha
    | _ => rfl

theorem hostRead_setKey_of_not_mem (ha : ¬ (0x10 ≤ a.toNat ∧ a.toNat ≤ 0x1F)) (k : Block) :
    hostRead a (s.setKey k) = hostRead a s :=
  hostRead_congr fun l hl => by
    cases l with
    | key i => have := Option.some.inj hl; omega
    | _ => rfl

theorem hostRead_setBlkout_of_not_mem (ha : ¬ (0x30 ≤ a.toNat ∧ a.toNat ≤ 0x3F)) (b : Block) :
    hostRead a (s.setBlkout b) = hostRead a s :=
  hostRead_congr fun l hl => by
    cases l with
    | blkout i => have := Option.some.inj hl; omega
    | _ => rfl

theorem hostRead_setTag_of_not_mem (ha : ¬ (0x40 ≤ a.toNat ∧ a.toNat ≤ 0x4F)) (b : Block) :
    hostRead a (s.setTag b) = hostRead a s :=
  hostRead_congr fun l hl => by
    cases l with
    | tag i => have := Option.some.inj hl; omega
    | _ => rfl

theorem hostRead_setAddr_of_not_mem (ha : ¬ (0x50 ≤ a.toNat ∧ a.toNat ≤ 0x55)) (x : DeviceAddress) :
    hostRead a (s.setAddr x) = hostRead a s :=
  hostRead_congr fun l hl => by
    cases l with
    | addr i => have := Option.some.inj hl; omega
    | _ => rfl

/-- Every command leaves the host's side of the interface alone (notes/assumptions/1.md). -/
theorem exec_keeps_host_side {i : Instr} (h : exec i s = .next t) : t.pending = s.pending ∧ t.replies = s.replies := by
  rcases exec_cases i s t h with ⟨-, k, -, rfl⟩ | ⟨-, rfl⟩ | ⟨-, -, rfl⟩ | ⟨-, rfl⟩ | ⟨-, k, -, rfl⟩ | ⟨-, rfl⟩ |
    ⟨-, -, rfl⟩ | ⟨-, -, rfl⟩ | ⟨-, -, rfl⟩ <;> simp

/-- `STATUS` is among the registers of every command, so the end of a command does not show at any other address. -/
theorem exec_frame {i : Instr} (h : exec i s = .next t) (ha : ¬ commandMayWrite i a) : hostRead a t = hostRead a s := by
  obtain ⟨hstatus, hregs⟩ := not_or.1 ha
  rcases exec_cases i s t h with ⟨rfl, k, -, rfl⟩ | ⟨rfl, rfl⟩ | ⟨rfl, -, rfl⟩ | ⟨rfl, rfl⟩ | ⟨rfl, k, -, rfl⟩ |
    ⟨rfl, rfl⟩ | ⟨-, -, rfl⟩ | ⟨-, -, rfl⟩ | ⟨-, -, rfl⟩ <;> rw [hostRead_setStatus_of_ne hstatus]
  · exact hostRead_setKey_of_not_mem hregs k
  · exact hostRead_setBlkout_of_not_mem hregs _
  · exact hostRead_setTag_of_not_mem hregs _
  · exact hostRead_setAddr_of_not_mem hregs _
  · obtain ⟨hkey, htag, haddr⟩ : _ ∧ _ ∧ _ := by simpa only [not_or] using hregs
    rw [hostRead_setAddr_of_not_mem haddr, hostRead_setTag_of_not_mem htag, hostRead_setKey_of_not_mem hkey]
  · exact absurd trivial hregs

end Frame

/-- Settles O23, by the frame of every command. -/
theorem commandsWriteOnlyTheirRegisters : Obligations.CommandsWriteOnlyTheirRegisters := by
  intro i s t h
  exact ⟨fun _ ha => exec_frame h ha, exec_keeps_host_side h⟩

end Sys2Proof.Machine
end

section
/-! SUPPORT. The reset state and the `STATUS` byte (spec/10_state.md R32, R33, R37). -/

namespace Sys2Proof.Machine

theorem loadByte_reset (l : Loc) : loadByte l State.reset = 0 := by
  cases l <;> simp [loadByte, State.reset]

/-- Settles O17: every clause is the byte at one kind of location. -/
theorem resetStateIsAllZero : Obligations.ResetStateIsAllZero :=
  ⟨fun i => loadByte_reset (.str i), rfl, fun i => loadByte_reset (.key i), fun i => loadByte_reset (.msg i), rfl,
    fun i => loadByte_reset (.blkin i), fun i => loadByte_reset (.blkout i), fun i => loadByte_reset (.tag i),
    fun i => loadByte_reset (.addr i), rfl, fun a => loadByte_reset (locate a)⟩

/-- The shape `(code << 4) | 0x02` of R153 puts any code into `ERRCODE` and sets `ERR` alone of the two flags. -/
theorem fields_of_errorShape (c : BitVec 4) :
    okFlag ((c.setWidth 8 <<< 4) ||| 0x02) = false ∧ errFlag ((c.setWidth 8 <<< 4) ||| 0x02) = true ∧
      errCode ((c.setWidth 8 <<< 4) ||| 0x02) = c := by
  revert c; decide

theorem legalStatus_iff (v : Byte) :
    legalStatus v = true ↔ v = 0x00 ∨ v = 0x01 ∨ v = 0x12 ∨ v = 0x22 ∨ v = 0x32 := by
  simp [legalStatus, or_assoc]

/-- `OK` and `ERR` exclude each other in a legal value, both are 0 in the reset value only, and bits 3:2 are 0. -/
theorem legalStatus_fields {v : Byte} (h : legalStatus v = true) :
    ¬ (okFlag v = true ∧ errFlag v = true) ∧ (okFlag v = false ∧ errFlag v = false ↔ v = 0x00) ∧ v.extractLsb' 2 2 = 0 := by
  rcases (legalStatus_iff v).1 h with rfl | rfl | rfl | rfl | rfl <;> decide

/-- Settles O19, by the fields of every error code and of the five legal values. -/
theorem statusValuesAndFields : Obligations.StatusValuesAndFields :=
  ⟨rfl, statusOfErr_parseError, statusOfErr_illegalCommand, statusOfErr_badLength, rfl, rfl, rfl,
    fun e => fields_of_errorShape e.code, fun _ => legalStatus_fields⟩

/-- Settles O22: no command reads `STATUS`, and every one ends in `complete` or `raise`, which replace it. -/
theorem statusIsNotSticky : Obligations.StatusIsNotSticky := by
  intro i s v
  cases i with
  | parse => rfl
  | ecbenc => rfl
  | cmac => rfl
  | extract => rfl
  | derive => rfl
  | clear => rfl

end Sys2Proof.Machine
end

section
/-! SUPPORT. The register window as the host sees it (spec/20_memory.md R41 to R45, R49): the access at every address, what
every address reads after a data write, and that the window shows every register. -/

namespace Sys2Proof.Machine

/-! ### The address map -/

/-- The byte of a location is read at its address. -/
theorem hostRead_ofNat {l : Loc} {n : Nat} (h : l.address = some n) (s : State) :
    hostRead (BitVec.ofNat 8 n) s = loadByte l s := by
  rw [hostRead, locate_address l n h]

/-! The access column, checked at each of the 256 addresses. -/

section Access

variable (a : Byte)

theorem access_locate_eq_wo_iff : (locate a).access = .wo ↔ a.toNat = 0x00 := by
  revert a; decide +kernel

theorem access_locate_eq_rw_iff : (locate a).access = .rw ↔ readWriteAddress a := by
  revert a; decide +kernel

theorem access_locate_eq_ro_iff :
    (locate a).access = .ro ↔ a.toNat = 0x01 ∨ (0x30 ≤ a.toNat ∧ a.toNat ≤ 0x3F) ∨ (0x50 ≤ a.toNat ∧ a.toNat ≤ 0x55) := by
  revert a; decide +kernel

theorem access_locate_eq_reserved_iff : (locate a).access = .reserved ↔ reservedAddress a := by
  revert a; decide +kernel

end Access

theorem loadByte_of_access_reserved {l : Loc} (h : l.access = .reserved) (s : State) : loadByte l s = 0 := by
  cases l with
  | reserved => rfl
  | _ => cases h

theorem hostRead_reserved {a : Byte} (h : reservedAddress a) (s : State) : hostRead a s = 0 :=
  loadByte_of_access_reserved ((access_locate_eq_reserved_iff a).2 h) s

/-- Settles O10: every location is read at its address, and the access is that of the row of the map. -/
theorem windowFollowsTheAddressMap : Obligations.WindowFollowsTheAddressMap := by
  refine ⟨fun s => ⟨?cmd, ?status, ?strlen, ?msglen, fun i => ?key, fun i => ?blkin, fun i => ?blkout, fun i => ?tag,
    fun i => ?addr, fun i => ?str, fun i => ?msg, fun a h => hostRead_reserved h s⟩, fun a => ?access,
    fun a => loadByte_reset (locate a)⟩
  case cmd => exact hostRead_ofNat (l := .cmd) rfl s
  case status => exact hostRead_ofNat (l := .status) rfl s
  case strlen => exact hostRead_ofNat (l := .strlen) rfl s
  case msglen => exact hostRead_ofNat (l := .msglen) rfl s
  case key => exact hostRead_ofNat (l := .key i) rfl s
  case blkin => exact hostRead_ofNat (l := .blkin i) rfl s
  case blkout => exact hostRead_ofNat (l := .blkout i) rfl s
  case tag => exact hostRead_ofNat (l := .tag i) rfl s
  case addr => exact hostRead_ofNat (l := .addr i) rfl s
  case str => exact hostRead_ofNat (l := .str i) rfl s
  case msg => exact hostRead_ofNat (l := .msg i) rfl s
  case access =>
    exact ⟨access_locate_eq_wo_iff a, access_locate_eq_rw_iff a, access_locate_eq_ro_iff a,
      access_locate_eq_reserved_iff a⟩

/-! ### Data writes -/

theorem hostWrite_of_rw {a : Byte} (h : (locate a).access = .rw) (v : Byte) (s : State) :
    hostWrite a v s = storeByte (locate a) v s :=
  (hostWrite_cases a v s).elim And.right fun hnot => absurd h hnot.1

theorem hostWrite_of_not_rw {a : Byte} (h : (locate a).access ≠ .rw) (v : Byte) (s : State) : hostWrite a v s = s :=
  (hostWrite_cases a v s).elim (fun hrw => absurd hrw.1 h) And.right

theorem storeByte_pending (l : Loc) (v : Byte) (s : State) : (storeByte l v s).pending = s.pending := by
  cases l <;> rfl

theorem storeByte_replies (l : Loc) (v : Byte) (s : State) : (storeByte l v s).replies = s.replies := by
  cases l <;> rfl

theorem storeByte_setPending (l : Loc) (v : Byte) (s : State) (xs : List Transaction) :
    storeByte l v (s.setPending xs) = (storeByte l v s).setPending xs := by
  cases l <;> rfl

section HostWrite

variable (a v : Byte) (s : State)

@[simp] theorem hostWrite_pending : (hostWrite a v s).pending = s.pending := by
  rcases hostWrite_cases a v s with ⟨-, hw⟩ | ⟨-, hw⟩
  · rw [hw, storeByte_pending]
  · rw [hw]

@[simp] theorem hostWrite_replies : (hostWrite a v s).replies = s.replies := by
  rcases hostWrite_cases a v s with ⟨-, hw⟩ | ⟨-, hw⟩
  · rw [hw, storeByte_replies]
  · rw [hw]

theorem hostWrite_setPending (xs : List Transaction) :
    hostWrite a v (s.setPending xs) = (hostWrite a v s).setPending xs := by
  by_cases h : (locate a).access = .rw
  · simp only [hostWrite_of_rw h, storeByte_setPending]
  · simp only [hostWrite_of_not_rw h]

end HostWrite

theorem hostRead_hostWrite_same {a : Byte} (h : (locate a).access = .rw) (v : Byte) (s : State) :
    hostRead a (hostWrite a v s) = v := by
  rw [hostRead, hostWrite_of_rw h]
  apply loadByte_storeByte_same
  · intro hcmd; simp [hcmd, Loc.access] at h
  · intro hreserved; simp [hreserved, Loc.access] at h

theorem hostRead_hostWrite_of_ne {a b : Byte} (hne : b ≠ a) (v : Byte) (s : State) :
    hostRead b (hostWrite a v s) = hostRead b s := by
  rcases hostWrite_cases a v s with ⟨hrw, hw⟩ | ⟨-, hw⟩
  · have hloc : locate a ≠ locate b := fun he =>
      hne (locate_injective a b he fun hreserved => by simp [hreserved, Loc.access] at hrw).symm
    rw [hw]
    exact loadByte_storeByte_other _ _ v s hloc
  · rw [hw]

/-- What every address reads after a data write. -/
theorem hostRead_hostWrite (a b v : Byte) (s : State) :
    hostRead b (hostWrite a v s) = if b = a ∧ (locate a).access = .rw then v else hostRead b s := by
  split_ifs with h
  · obtain ⟨rfl, hrw⟩ := h
    exact hostRead_hostWrite_same hrw v s
  · by_cases hba : b = a
    · rw [hostWrite_of_not_rw fun hrw => h ⟨hba, hrw⟩]
    · exact hostRead_hostWrite_of_ne hba v s

/-! ### The window shows every register -/

theorem loadByte_eq_of_hostRead_eq {s t : State} (h : ∀ a, hostRead a s = hostRead a t) (l : Loc) :
    loadByte l s = loadByte l t := by
  cases hl : l.address with
  | some n => rw [← hostRead_ofNat hl, ← hostRead_ofNat hl, h]
  | none =>
    cases l with
    | reserved => rfl
    | _ => cases hl

/-- Two states with the same window and the same host's side are the same state (spec/10_state.md R36). -/
theorem state_eq_of_hostRead_eq {s t : State} (h : ∀ a, hostRead a s = hostRead a t) (hpending : s.pending = t.pending)
    (hreplies : s.replies = t.replies) : s = t := by
  have hload := loadByte_eq_of_hostRead_eq h
  have hstr : s.str = t.str := Vector.ext fun i hi => hload (.str ⟨i, hi⟩)
  have hkey : s.key = t.key := Vector.ext fun i hi => hload (.key ⟨i, hi⟩)
  have hmsg : s.msg = t.msg := Vector.ext fun i hi => hload (.msg ⟨i, hi⟩)
  have hblkin : s.blkin = t.blkin := Vector.ext fun i hi => hload (.blkin ⟨i, hi⟩)
  have hblkout : s.blkout = t.blkout := Vector.ext fun i hi => hload (.blkout ⟨i, hi⟩)
  have htag : s.tag = t.tag := Vector.ext fun i hi => hload (.tag ⟨i, hi⟩)
  have haddr : s.addr = t.addr := Vector.ext fun i hi => hload (.addr ⟨i, hi⟩)
  have hstrlen : s.strlen = t.strlen := hload .strlen
  have hmsglen : s.msglen = t.msglen := hload .msglen
  have hstatus : s.status = t.status := hload .status
  cases s
  cases t
  simp_all only

theorem hostWrite_hostWrite (a v : Byte) (s : State) : hostWrite a v (hostWrite a v s) = hostWrite a v s := by
  apply state_eq_of_hostRead_eq
  · intro c
    simp only [hostRead_hostWrite]
    split_ifs <;> rfl
  · simp
  · simp

theorem hostWrite_comm {a b : Byte} (hab : a ≠ b) (v w : Byte) (s : State) :
    hostWrite a v (hostWrite b w s) = hostWrite b w (hostWrite a v s) := by
  apply state_eq_of_hostRead_eq
  · intro c
    by_cases hca : c = a
    · subst hca
      simp only [hostRead_hostWrite, hab, false_and, if_false]
    · simp only [hostRead_hostWrite, hca, false_and, if_false]
  · simp
  · simp

/-- Settles O13, by what every address reads after the two writes. -/
theorem dataWritesCommute : Obligations.DataWritesCommute := by
  intro s a b v w hab
  exact hostWrite_comm hab v w s

end Sys2Proof.Machine
end

section
/-! SUPPORT. One transaction at a time (spec/20_memory.md R40 to R45, R49): what a step does with each kind of transaction,
that a transaction repeated at once adds nothing, and that no transaction depends on the transactions that wait behind it. -/

namespace Sys2Proof.Machine

/-! ### Steps -/

section Step

variable {s : State} {a v : Byte} {rest : List Transaction}

theorem step_of_pending_nil (h : s.pending = []) : step s = .next s := by
  simp [step, takeTransaction, h]

theorem step_read (h : s.pending = .read a :: rest) :
    step s = .next ((s.setPending rest).setReplies (s.replies ++ [hostRead a s])) := by
  rw [step_cons s _ _ h, ← hostRead_setPending a s rest]
  rfl

theorem step_data (h : s.pending = .write a v :: rest) (ha : a ≠ 0x00) :
    step s = .next (hostWrite a v (s.setPending rest)) := by
  rw [step_cons s _ _ h, transact_data a v _ ha]

end Step

/-- `CMD` is no read/write address (spec/20_memory.md R43). -/
theorem ne_cmd_of_readWriteAddress {a : Byte} (h : readWriteAddress a) : a ≠ 0x00 := by
  rintro rfl
  exact absurd h (by decide)

/-- Settles O11: the write is `hostWrite`, whose effect on the window is known. -/
theorem dataWriteSetsExactlyOneByte : Obligations.DataWriteSetsExactlyOneByte := by
  intro s a v rest h hrw
  refine ⟨_, step_data h (ne_cmd_of_readWriteAddress hrw), ?_, fun b hb => ?_, by simp, by simp⟩
  · exact hostRead_hostWrite_same ((access_locate_eq_rw_iff a).2 hrw) v _
  · rw [hostRead_hostWrite_of_ne hb, hostRead_setPending]

/-- Settles O12: without read/write access `hostWrite` keeps the state, and a reserved address reads zero. -/
theorem otherWritesAreIgnored : Obligations.OtherWritesAreIgnored := by
  constructor
  · intro s a v rest h ha hrw
    rw [step_data h ha, hostWrite_of_not_rw fun haccess => hrw ((access_locate_eq_rw_iff a).1 haccess)]
    rfl
  · intro s a rest h hreserved
    rw [step_read h, hostRead_reserved hreserved]
    rfl

/-- Settles O6. -/
theorem stepIdlesWithoutTransaction : Obligations.StepIdlesWithoutTransaction :=
  fun _ => step_of_pending_nil

/-- Settles O9. -/
theorem readReturnsTheByteAndChangesNothing : Obligations.ReadReturnsTheByteAndChangesNothing :=
  fun _ _ _ => step_read

/-! ### A transaction repeated at once -/

section SetterOrder

variable (s : State)

/-! One order for the setters that commands use: `KEY` and `BLKOUT`, `TAG`, `ADDR`, `STATUS`, `pending`. -/

@[simp] theorem State.setTag_setKey (b k : Block) : (s.setTag b).setKey k = (s.setKey k).setTag b := rfl
@[simp] theorem State.setAddr_setKey (x : DeviceAddress) (k : Block) : (s.setAddr x).setKey k = (s.setKey k).setAddr x := rfl
@[simp] theorem State.setAddr_setTag (x : DeviceAddress) (b : Block) : (s.setAddr x).setTag b = (s.setTag b).setAddr x := rfl
@[simp] theorem State.setStatus_setKey (v : Byte) (k : Block) : (s.setStatus v).setKey k = (s.setKey k).setStatus v := rfl
@[simp] theorem State.setStatus_setBlkout (v : Byte) (b : Block) :
    (s.setStatus v).setBlkout b = (s.setBlkout b).setStatus v := rfl
@[simp] theorem State.setStatus_setTag (v : Byte) (b : Block) : (s.setStatus v).setTag b = (s.setTag b).setStatus v := rfl
@[simp] theorem State.setStatus_setAddr (v : Byte) (x : DeviceAddress) :
    (s.setStatus v).setAddr x = (s.setAddr x).setStatus v := rfl
@[simp] theorem State.setPending_setKey (xs : List Transaction) (k : Block) :
    (s.setPending xs).setKey k = (s.setKey k).setPending xs := rfl
@[simp] theorem State.setPending_setTag (xs : List Transaction) (b : Block) :
    (s.setPending xs).setTag b = (s.setTag b).setPending xs := rfl
@[simp] theorem State.setPending_setAddr (xs : List Transaction) (x : DeviceAddress) :
    (s.setPending xs).setAddr x = (s.setAddr x).setPending xs := rfl
@[simp] theorem State.setPending_setStatus (xs : List Transaction) (v : Byte) :
    (s.setPending xs).setStatus v = (s.setStatus v).setPending xs := rfl

@[simp] theorem messageOperand_setTag (b : Block) : messageOperand (s.setTag b) = messageOperand s := rfl
@[simp] theorem messageOperand_setStatus (v : Byte) : messageOperand (s.setStatus v) = messageOperand s := rfl

end SetterOrder

/-- No command reads a register that it writes, so the same command runs the same way again (spec/10_state.md R30). -/
theorem exec_repeated {i : Instr} {s t : State} (h : exec i s = .next t) : exec i t = .next t := by
  cases i with
  | parse =>
    cases hk : parseUuid s.strlen s.str with
    | none =>
      cases h.symm.trans (exec_parse_of_none hk)
      exact exec_parse_of_none hk
    | some k =>
      cases h.symm.trans (exec_parse_of_some hk)
      exact exec_parse_of_some hk
  | ecbenc =>
    cases h.symm.trans (exec_ecbenc s)
    simp [exec_ecbenc]
  | cmac =>
    rcases Nat.lt_or_ge 64 s.msglen.toNat with hgt | hle
    · cases h.symm.trans (exec_cmac_of_gt hgt)
      exact exec_cmac_of_gt hgt
    · cases h.symm.trans (exec_cmac_of_le hle)
      rw [exec_cmac_of_le (by simpa using hle)]
      simp
  | extract =>
    cases h.symm.trans (exec_extract s)
    simp [exec_extract]
  | derive =>
    cases hk : parseUuid s.strlen s.str with
    | none =>
      cases h.symm.trans (exec_derive_of_none hk)
      exact exec_derive_of_none hk
    | some k =>
      cases h.symm.trans (exec_derive_of_some hk)
      simp [exec_derive_of_some (k := k), hk]
  | clear =>
    cases h.symm.trans (exec_clear s)
    exact exec_clear _

theorem runCommand_of_ok {v : Byte} {i : Instr} (h : decode v = .ok i) (s : State) : runCommand v s = exec i s := by
  simp [runCommand, h]

theorem runCommand_of_illegal {v w : Byte} (h : decode v = .error (.illegal w)) (s : State) :
    runCommand v s = .next (s.setStatus (statusOfErr (.illegalCommand w))) := by
  simp [runCommand, h]

theorem runCommand_repeated {v : Byte} {s t : State} (h : runCommand v s = .next t) : runCommand v t = .next t := by
  match hd : decode v with
  | .ok i =>
    rw [runCommand_of_ok hd] at h ⊢
    exact exec_repeated h
  | .error (.illegal w) =>
    cases h.symm.trans (runCommand_of_illegal hd s)
    exact runCommand_of_illegal hd _

/-- Settles O14: the second write finds the byte it sets, and the second command the operands of the first. -/
theorem repeatedTransactionChangesNothing : Obligations.RepeatedTransactionChangesNothing := by
  refine ⟨fun s t a v h => ?write, fun s t h => ?reset, fun s t a h => ?read⟩
  case write =>
    by_cases ha : a = 0x00
    · subst ha
      exact runCommand_repeated h
    · rw [transact_data a v _ ha] at h ⊢
      cases h
      rw [hostWrite_hostWrite]
  case reset =>
    cases h
    rfl
  case read =>
    cases h
    exact hostRead_setReplies a s _

/-! ### The transactions that wait -/

/-- Every command completes, and in the same way whatever transactions wait behind it. -/
theorem exec_ignores_pending (i : Instr) (s : State) :
    ∃ t, exec i s = .next t ∧ ∀ xs, exec i (s.setPending xs) = .next (t.setPending xs) := by
  cases i with
  | parse =>
    cases hk : parseUuid s.strlen s.str with
    | none => exact ⟨_, exec_parse_of_none hk, fun xs => exec_parse_of_none (s := s.setPending xs) hk⟩
    | some k => exact ⟨_, exec_parse_of_some hk, fun xs => exec_parse_of_some (s := s.setPending xs) hk⟩
  | ecbenc => exact ⟨_, exec_ecbenc s, fun xs => exec_ecbenc (s.setPending xs)⟩
  | cmac =>
    rcases Nat.lt_or_ge 64 s.msglen.toNat with hgt | hle
    · exact ⟨_, exec_cmac_of_gt hgt, fun xs => exec_cmac_of_gt (s := s.setPending xs) hgt⟩
    · exact ⟨_, exec_cmac_of_le hle, fun xs => exec_cmac_of_le (s := s.setPending xs) hle⟩
  | extract => exact ⟨_, exec_extract s, fun xs => exec_extract (s.setPending xs)⟩
  | derive =>
    cases hk : parseUuid s.strlen s.str with
    | none => exact ⟨_, exec_derive_of_none hk, fun xs => exec_derive_of_none (s := s.setPending xs) hk⟩
    | some k => exact ⟨_, exec_derive_of_some hk, fun xs => by simp [exec_derive_of_some (k := k), hk]⟩
  | clear => exact ⟨_, exec_clear s, fun xs => exec_clear (s.setPending xs)⟩

theorem runCommand_ignores_pending (v : Byte) (s : State) :
    ∃ t, runCommand v s = .next t ∧ ∀ xs, runCommand v (s.setPending xs) = .next (t.setPending xs) := by
  match hd : decode v with
  | .ok i =>
    simp only [runCommand_of_ok hd]
    exact exec_ignores_pending i s
  | .error (.illegal w) => exact ⟨_, runCommand_of_illegal hd s, fun xs => runCommand_of_illegal hd (s.setPending xs)⟩

theorem readTransaction_setPending (a : Byte) (s : State) (xs : List Transaction) :
    readTransaction a (s.setPending xs) = (readTransaction a s).setPending xs := by
  rw [readTransaction, hostRead_setPending]
  rfl

/-- Every transaction completes, and in the same way whatever transactions wait behind it. -/
theorem transact_ignores_pending (x : Transaction) (s : State) :
    ∃ t, transact x s = .next t ∧ ∀ xs, transact x (s.setPending xs) = .next (t.setPending xs) := by
  cases x with
  | read a => exact ⟨_, rfl, fun xs => congrArg _ (readTransaction_setPending a s xs)⟩
  | write a v =>
    by_cases ha : a = 0x00
    · subst ha
      exact runCommand_ignores_pending v s
    · exact ⟨_, transact_data a v s ha, fun xs => by rw [transact_data a v _ ha, hostWrite_setPending]⟩
  | reset => exact ⟨_, rfl, fun _ => rfl⟩

theorem run_succ_of_step {M : Host.Core} {s t : M.State} (h : M.step s = .next t) (n : Nat) :
    M.run (n + 1) s = M.run n t := by
  rw [Host.Core.run, h]

theorem setPending_of_pending_eq {s : State} {ts : List Transaction} (h : s.pending = ts) : s.setPending ts = s := by
  subst h
  rfl

/-- The machine takes a list of transactions one by one, and none sees the ones behind it. -/
theorem run_eq_transactAll {s : State} {ts : List Transaction} (h : s.pending = ts) :
    Host.Core.run core ts.length s = transactAll ts (s.setPending []) := by
  induction ts generalizing s with
  | nil => exact congrArg _ (setPending_of_pending_eq h).symm
  | cons x xs ih =>
    obtain ⟨t, -, hpending⟩ := transact_ignores_pending x s
    have hstep : step s = .next (t.setPending xs) := (step_cons s x xs h).trans (hpending xs)
    have hfold : transactAll (x :: xs) (s.setPending []) = transactAll xs (t.setPending []) := by
      rw [transactAll_cons, hpending, andThen_next]
    rw [hfold]
    exact (run_succ_of_step (M := core) hstep xs.length).trans (ih rfl)

/-- Settles O16, by induction on the pending transactions. -/
theorem runIsTheFoldOfTransactions : Obligations.RunIsTheFoldOfTransactions :=
  fun _ => run_eq_transactAll rfl

end Sys2Proof.Machine
end

section
/-! SUPPORT. Opcode bytes (spec/30_encoding.md R61, R63, R67): the decoder against the encoder, and the step that takes a
write to `CMD`. -/

namespace Sys2Proof.Machine

theorem decode_encode (i : Instr) : decode (encode i) = .ok i := by
  cases i with
  | parse => rfl
  | ecbenc => rfl
  | cmac => rfl
  | extract => rfl
  | derive => rfl
  | clear => rfl

theorem decode_of_ne_encode {v : Byte} (h : ∀ i : Instr, v ≠ encode i) : decode v = .error (.illegal v) :=
  (if_neg (h .parse)).trans <| (if_neg (h .ecbenc)).trans <| (if_neg (h .cmac)).trans <|
    (if_neg (h .extract)).trans <| (if_neg (h .derive)).trans <| if_neg (h .clear)

theorem encode_of_decode_ok {v : Byte} {i : Instr} (h : decode v = .ok i) : encode i = v := by
  by_cases hv : ∃ j, v = encode j
  · obtain ⟨j, rfl⟩ := hv
    cases h.symm.trans (decode_encode j)
    rfl
  · cases h.symm.trans (decode_of_ne_encode (not_exists.1 hv))

theorem decode_eq_illegal_iff (v : Byte) : decode v = .error (.illegal v) ↔ ∀ i : Instr, encode i ≠ v := by
  constructor
  · rintro h i rfl
    cases h.symm.trans (decode_encode i)
  · exact fun h => decode_of_ne_encode fun i => (h i).symm

/-- Settles O1: a byte is some command's opcode, which decodes to it, or differs from all six and is rejected. -/
theorem decodeAndEncodeAgree : Obligations.DecodeAndEncodeAgree :=
  ⟨fun i _ => decode_encode i, fun _ _ => encode_of_decode_ok, decode_eq_illegal_iff⟩

theorem opcode_range (i : Instr) : 1 ≤ (encode i).toNat ∧ (encode i).toNat ≤ 6 :=
  match i with
  | .parse => Laws.OpcodeRange.parse
  | .ecbenc => Laws.OpcodeRange.ecbenc
  | .cmac => Laws.OpcodeRange.cmac
  | .extract => Laws.OpcodeRange.extract
  | .derive => Laws.OpcodeRange.derive
  | .clear => Laws.OpcodeRange.clear

/-- The bytes outside `0x01`..`0x06` are no opcodes (R67). -/
theorem decode_of_no_opcode {v : Byte} (h : v = 0x00 ∨ 0x07 ≤ v.toNat) : decode v = .error (.illegal v) := by
  rw [decode_eq_illegal_iff]
  rintro i rfl
  obtain ⟨hlow, hhigh⟩ := opcode_range i
  rcases h with hzero | hseven
  · simp [hzero] at hlow
  · omega

/-- Settles O2: the table's words are the opcodes of its rows. -/
theorem tableWordsDecode : Obligations.TableWordsDecode :=
  ⟨decode_encode .parse, decode_encode .ecbenc, decode_encode .cmac, decode_encode .extract, decode_encode .derive,
    decode_encode .clear, fun _ => decode_of_no_opcode⟩

theorem step_command {s : State} {v : Byte} {rest : List Transaction} (h : s.pending = .write 0x00 v :: rest) :
    step s = runCommand v (s.setPending rest) := by
  rw [step_cons s _ _ h, transact_command]

/-- Settles O7: the step is `runCommand`, which runs what the byte decodes to. -/
theorem stepRunsTheDecodedCommand : Obligations.StepRunsTheDecodedCommand := by
  intro s v rest i h hdecode
  rw [step_command h, runCommand_of_ok hdecode]
  rfl

/-- Settles O8: the byte is no opcode, so `runCommand` raises `IllegalCommand`. -/
theorem illegalOpcodeWritesStatusOnly : Obligations.IllegalOpcodeWritesStatusOnly := by
  intro s v rest h hv
  rw [step_command h, runCommand_of_illegal (decode_of_no_opcode hv), statusOfErr_illegalCommand]
  rfl

end Sys2Proof.Machine
end

section
/-! SUPPORT. Transaction words (spec/30_encoding.md R64) and the words of a script (R65, R66). Every word is the
concatenation of its three fields, and the encoder and the decoder are what they do with such a concatenation. -/

namespace Sys2Proof.Machine

/-- Format `T17` from its fields `wr`, `addr` and `data` (R64). -/
def transactionWord (wr : BitVec 1) (a d : Byte) : BitVec 17 := (wr ++ a) ++ d

section Fields

variable (wr : BitVec 1) (a d v : Byte)

theorem transactionWord_wr : (transactionWord wr a d).getLsbD 16 = wr.getLsbD 0 := by
  rw [transactionWord, BitVec.getLsbD_append, BitVec.getLsbD_append]
  rfl

theorem transactionWord_addr : (transactionWord wr a d).extractLsb' 8 8 = a := by
  rw [transactionWord, BitVec.extractLsb'_append_eq_of_le (Nat.le_refl 8)]
  exact BitVec.extractLsb'_append_eq_right

theorem transactionWord_data : (transactionWord wr a d).extractLsb' 0 8 = d :=
  BitVec.extractLsb'_append_eq_right

theorem toNat_transactionWord :
    (transactionWord wr a d).toNat = 0x10000 * wr.toNat + 0x100 * a.toNat + d.toNat := by
  have ha : a.toNat < 2 ^ 8 := a.isLt
  have hd : d.toNat < 2 ^ 8 := d.isLt
  rw [transactionWord, BitVec.toNat_append, BitVec.toNat_append, ← Nat.shiftLeft_add_eq_or_of_lt ha,
    ← Nat.shiftLeft_add_eq_or_of_lt hd, Nat.shiftLeft_eq, Nat.shiftLeft_eq]
  omega

theorem encodeTransaction_write : encodeTransaction (.write a v) = some (transactionWord 1 a v) := rfl

theorem encodeTransaction_read : encodeTransaction (.read a) = some (transactionWord 0 a 0) := rfl

theorem decodeTransaction_write : decodeTransaction (transactionWord 1 a v) = .write a v := by
  rw [decodeTransaction, transactionWord_wr, transactionWord_addr, transactionWord_data]
  rfl

/-- The data of a `Read` word does not matter. -/
theorem decodeTransaction_read : decodeTransaction (transactionWord 0 a d) = .read a := by
  rw [decodeTransaction, transactionWord_wr, transactionWord_addr]
  rfl

theorem wordCanonical_write : wordCanonical (transactionWord 1 a v) = true := by
  rw [wordCanonical, transactionWord_wr]
  rfl

theorem wordCanonical_read : wordCanonical (transactionWord 0 a d) = true ↔ d = 0 := by
  rw [wordCanonical, transactionWord_wr, transactionWord_data]
  simp

end Fields

theorem exists_eq_transactionWord (w : BitVec 17) : ∃ wr a d, w = transactionWord wr a d :=
  ⟨(w.extractLsb' 8 9).extractLsb' 8 1, (w.extractLsb' 8 9).extractLsb' 0 8, w.extractLsb' 0 8, by
    rw [transactionWord, BitVec.extractLsb'_append_extractLsb', BitVec.extractLsb'_append_extractLsb']⟩

/-- Settles O3, by the fields of the words the encoder makes; a `Read` word with data is known by its number. -/
theorem transactionWordFormat : Obligations.TransactionWordFormat := by
  refine ⟨fun a v => ⟨_, encodeTransaction_write a v, ?_, decodeTransaction_write a v⟩,
    fun a => ⟨_, encodeTransaction_read a, ?_, decodeTransaction_read a 0⟩, rfl, fun w a d hw => ?_⟩
  · simp [toNat_transactionWord]
  · simp [toNat_transactionWord]
  · have hread : w = transactionWord 0 a d := BitVec.eq_of_toNat_eq (by simp [toNat_transactionWord, hw])
    rw [hread, decodeTransaction_read]

/-- A word denotes the transaction it encodes, and the encoder leaves no data in a `Read` word. -/
theorem decodeTransaction_of_encode {t : Transaction} {w : BitVec 17} (h : encodeTransaction t = some w) :
    decodeTransaction w = t ∧ wordCanonical w = true := by
  cases t with
  | read a =>
    cases h
    exact ⟨decodeTransaction_read a 0, (wordCanonical_read a 0).2 rfl⟩
  | write a v =>
    cases h
    exact ⟨decodeTransaction_write a v, wordCanonical_write a v⟩
  | reset => cases h

theorem encodeTransaction_decode_of_canonical {w : BitVec 17} (h : wordCanonical w = true) :
    encodeTransaction (decodeTransaction w) = some w := by
  obtain ⟨wr, a, d, rfl⟩ := exists_eq_transactionWord w
  rcases BitVec.eq_zero_or_eq_one wr with rfl | rfl
  · obtain rfl : d = 0 := (wordCanonical_read a d).1 h
    exact congrArg _ (decodeTransaction_read a 0)
  · exact congrArg _ (decodeTransaction_write a d)

/-- Settles O4, by cases on the transaction and on the `wr` field of the word. -/
theorem transactionWordsRoundTrip : Obligations.TransactionWordsRoundTrip :=
  ⟨fun _ _ => decodeTransaction_of_encode, fun _ => encodeTransaction_decode_of_canonical⟩

/-! ### The words of a script -/

theorem map_decodeTransaction_words {ts : List Transaction} (h : Transaction.reset ∉ ts) :
    (ts.filterMap encodeTransaction).map decodeTransaction = ts := by
  induction ts with
  | nil => rfl
  | cons t ts ih =>
    obtain ⟨ht, hts⟩ : t ≠ .reset ∧ .reset ∉ ts := by simpa [eq_comm] using h
    obtain ⟨w, hw⟩ : ∃ w, encodeTransaction t = some w := by
      cases t with
      | read a => exact ⟨_, encodeTransaction_read a⟩
      | write a v => exact ⟨_, encodeTransaction_write a v⟩
      | reset => exact absurd rfl ht
    rw [List.filterMap_cons_some hw, List.map_cons, (decodeTransaction_of_encode hw).1, ih hts]

theorem reset_notMem_writesFrom (base : Nat) (bs : List Byte) : Transaction.reset ∉ writesFrom base bs := by
  induction bs generalizing base with
  | nil => simp [writesFrom]
  | cons b bs ih => simp [writesFrom, ih]

theorem reset_notMem_readsFrom (base n : Nat) : Transaction.reset ∉ readsFrom base n := by
  induction n generalizing base with
  | zero => simp [readsFrom]
  | succ n ih => simp [readsFrom, ih]

/-- Only a `reset` line resets. -/
theorem reset_notMem_lineTransactions {l : ScriptLine} (hl : l ≠ .reset) : Transaction.reset ∉ lineTransactions l := by
  cases l with
  | wr r v => simp [lineTransactions]
  | rd r => simp [lineTransactions]
  | cmd i => simp [lineTransactions, commandWrite]
  | reset => exact absurd rfl hl
  | ldkey h => exact reset_notMem_writesFrom _ h
  | ldblk h => exact reset_notMem_writesFrom _ h
  | ldtag h => exact reset_notMem_writesFrom _ h
  | ldmsg h => simp [lineTransactions, reset_notMem_writesFrom]
  | ldstr text => simp [lineTransactions, reset_notMem_writesFrom]
  | expect r h => exact reset_notMem_readsFrom _ _

/-- Settles O5: without a `reset` line every transaction has a word. -/
theorem scriptWordsDenoteTheScript : Obligations.ScriptWordsDenoteTheScript := by
  intro ls h
  apply map_decodeTransaction_words
  rw [scriptTransactions, List.mem_flatMap]
  rintro ⟨l, hl, hreset⟩
  exact reset_notMem_lineTransactions (fun he => h (he ▸ hl)) hreset

end Sys2Proof.Machine
end

section
/-! SUPPORT. Sequences of writes and of reads at consecutive addresses (spec/30_encoding.md R66), and the library call that
is made of them (R71). -/

namespace Sys2Proof.Machine

theorem transactAll_singleton (t : Transaction) (s : State) : transactAll [t] s = transact t s := by
  rw [transactAll_cons]
  cases transact t s with
  | next u => rfl
  | fault r => rfl
  | refused r => rfl

/-- A `cmd` line runs its command (R65). -/
theorem transact_commandWrite (i : Instr) (s : State) : transact (commandWrite i) s = exec i s :=
  runCommand_of_ok (decode_encode i) s

/-- Writes to consecutive addresses other than `CMD`: a read/write address among them takes the byte written to it, every
address outside and the host's side stay. -/
theorem transactAll_writesFrom {base : Nat} {bs : List Byte} (hbase : 0 < base) (hend : base + bs.length ≤ 256)
    (s : State) : ∃ t, transactAll (writesFrom base bs) s = .next t ∧ t.pending = s.pending ∧ t.replies = s.replies ∧
      (∀ i, i < bs.length → (locate (BitVec.ofNat 8 (base + i))).access = .rw →
        hostRead (BitVec.ofNat 8 (base + i)) t = bs.getD i 0) ∧
      ∀ a : Byte, a.toNat < base ∨ base + bs.length ≤ a.toNat → hostRead a t = hostRead a s := by
  induction bs generalizing base s with
  | nil => exact ⟨s, rfl, rfl, rfl, fun i hi => absurd hi (Nat.not_lt_zero i), fun _ _ => rfl⟩
  | cons b bs ih =>
    rw [List.length_cons] at hend ⊢
    have hnat : (BitVec.ofNat 8 base).toNat = base := Nat.mod_eq_of_lt (by omega)
    have hcmd : BitVec.ofNat 8 base ≠ 0x00 := fun h => by simp [h] at hnat; omega
    obtain ⟨t, ht, hpending, hreplies, hwritten, hframe⟩ :=
      ih (base := base + 1) (by omega) (by omega) (hostWrite (BitVec.ofNat 8 base) b s)
    refine ⟨t, ?_, by simp [hpending], by simp [hreplies], fun i hi hrw => ?_, fun a ha => ?_⟩
    · rw [writesFrom, transactAll_cons, transact_data _ _ _ hcmd, andThen_next, ht]
    · cases i with
      | zero =>
        rw [hframe _ (.inl (by rw [Nat.add_zero, hnat]; omega))]
        exact hostRead_hostWrite_same hrw b s
      | succ i =>
        rw [← Nat.succ_add_eq_add_succ] at hrw ⊢
        exact hwritten i (by omega) hrw
    · have hne : a ≠ BitVec.ofNat 8 base := fun h => by rw [h, hnat] at ha; omega
      rw [hframe a (by omega), hostRead_hostWrite_of_ne hne]

/-- Reads of consecutive addresses append the bytes of the window there to the replies. -/
theorem transactAll_readsFrom (base n : Nat) (s : State) :
    transactAll (readsFrom base n) s =
      .next (s.setReplies (s.replies ++ (List.range' base n).map fun a => hostRead (BitVec.ofNat 8 a) s)) := by
  induction n generalizing base s with
  | zero => simp [readsFrom, transactAll, State.setReplies]
  | succ n ih =>
    rw [readsFrom, transactAll_cons]
    change transactAll (readsFrom (base + 1) n) (readTransaction (BitVec.ofNat 8 base) s) = _
    simp [ih, readTransaction, List.range'_succ]

/-- Reading the six addresses of `ADDR` returns its bytes. -/
theorem readBytes_addr (s : State) :
    ((List.range' (bufferBase .addr) Config.addrBytes).map fun a => hostRead (BitVec.ofNat 8 a) s) = s.addr.toList := by
  apply List.ext_getElem
  · simp
  · intro j hj _
    have hj6 : j < 6 := by simpa using hj
    have hread : hostRead (BitVec.ofNat 8 (0x50 + j)) s = s.addr[j] := hostRead_ofNat (l := .addr ⟨j, hj6⟩) rfl s
    simpa [bufferBase] using hread

/-- `ldstr` puts the first 36 bytes of the text into `STR` and its length into `STRLEN`, 255 for a longer text (R66). -/
theorem transactAll_ldstr (text : List Byte) (s : State) :
    ∃ t, transactAll (lineTransactions (.ldstr text)) s = .next t ∧ t.replies = s.replies ∧
      t.strlen.toNat = min text.length 255 ∧ ∀ i : Fin 36, i.val < text.length → t.str[i] = text.getD i 0 := by
  obtain ⟨u, hu, -, hreplies, hwritten, -⟩ := transactAll_writesFrom (base := bufferBase .str)
    (bs := text.take Config.strBytes) (by decide) (by simp [bufferBase, Config.strBytes]; omega) s
  refine ⟨u.setStrlen (BitVec.ofNat 8 (min text.length 255)), ?_, hreplies, ?_, fun i hi => ?_⟩
  · rw [lineTransactions, transactAll_append, hu, andThen_next, transactAll_singleton]
    rfl
  · simp
  · have hloc : locate (BitVec.ofNat 8 (0x60 + i)) = .str i := locate_address (.str i) _ rfl
    have hstr : hostRead (BitVec.ofNat 8 (0x60 + i)) u = (text.take Config.strBytes).getD i 0 :=
      hwritten i (by simp [Config.strBytes, hi]) (congrArg Loc.access hloc)
    rw [hostRead_ofNat (l := .str i) rfl] at hstr
    simpa [loadByte, Config.strBytes] using hstr

/-- The library call reads `STATUS`, then `ADDR`, of the state that `DERIVE` leaves. -/
theorem runDeriveCall_of_derive {text : List Byte} {s u t : State}
    (hload : transactAll (lineTransactions (.ldstr text)) s = .next u) (hreplies : u.replies = s.replies)
    (hderive : exec .derive u = .next t) : runDeriveCall text s = callResult (t.status :: t.addr.toList) := by
  have hkeep : t.replies = s.replies := (exec_keeps_host_side hderive).2.trans hreplies
  have hstatus : lineTransactions (.rd .status) = readsFrom 0x01 1 := rfl
  have hcall : transactAll (deriveCall text) s = .next (t.setReplies (s.replies ++ t.status :: t.addr.toList)) := by
    rw [deriveCall, transactAll_append, transactAll_append, transactAll_append, hload, andThen_next,
      transactAll_singleton, transact_commandWrite, hderive, andThen_next, hstatus, transactAll_readsFrom, andThen_next,
      transactAll_readsFrom, readBytes_addr]
    simp [hkeep, hostRead_status]
  simp [runDeriveCall, hcall]

/-- The document's result of `derive(s)` for what the parser makes of the string (R71, spec/43_extract_derive.md R138). -/
def deriveResult : Option Block → CallResult
  | some k => .address (extractAddress (cmac k Config.label)).toList
  | none => .parseError

theorem runDeriveCall_eq_deriveResult {text : List Byte} {s u : State}
    (hload : transactAll (lineTransactions (.ldstr text)) s = .next u) (hreplies : u.replies = s.replies) :
    runDeriveCall text s = deriveResult (parseUuid u.strlen u.str) := by
  cases hk : parseUuid u.strlen u.str with
  | none =>
    rw [runDeriveCall_of_derive hload hreplies (exec_derive_of_none hk)]
    rfl
  | some k =>
    rw [runDeriveCall_of_derive hload hreplies (exec_derive_of_some hk)]
    rfl

theorem parseUuid_of_length_ne {len : Byte} (h : len.toNat ≠ 36) (x : UuidText) : parseUuid len x = none :=
  if_pos h

/-- After `ldstr` the parser sees the text if it has the right length, and otherwise a length that it rejects. -/
theorem parseUuid_ldstr {text : List Byte} {t : State} (hstrlen : t.strlen.toNat = min text.length 255)
    (hstr : ∀ i : Fin 36, i.val < text.length → t.str[i] = text.getD i 0) :
    parseUuid t.strlen t.str =
      if text.length = 36 then parseUuid 36 (Vector.ofFn fun p => text.getD p 0) else none := by
  split_ifs with hlen
  · have hlen36 : t.strlen = 36 := BitVec.eq_of_toNat_eq (by rw [hstrlen, hlen]; rfl)
    have htext : t.str = Vector.ofFn fun p => text.getD p 0 := by
      apply Vector.ext
      intro i hi
      simpa using hstr ⟨i, hi⟩ (by rw [hlen]; exact hi)
    rw [hlen36, htext]
  · exact parseUuid_of_length_ne (by omega) t.str

/-- Settles O51: `DERIVE` runs on what `ldstr` left, and the host reads its outcome. -/
theorem libraryCallIsDerive : Obligations.LibraryCallIsDerive := by
  intro text s
  obtain ⟨u, hload, hreplies, hstrlen, hstr⟩ := transactAll_ldstr text s
  rw [runDeriveCall_eq_deriveResult hload hreplies, parseUuid_ldstr hstrlen hstr, apply_ite deriveResult]
  cases parseUuid 36 (Vector.ofFn fun p => text.getD p 0) <;> rfl

end Sys2Proof.Machine
end

section
/-! SUPPORT. The characters of a UUID's text (spec/40_uuid_parse.md R77): the model's test and value of a hexadecimal digit
against the relation `hexDigitValue`, and the two digits of one byte. -/

namespace Sys2Proof.Machine

/-- The test and the value of a digit are the relation of R77. -/
theorem hexDigitValue_iff (c : Byte) (v : Nat) :
    hexDigitValue c v ↔ isHexDigit c = true ∧ (hexVal c).toNat = v := by
  simp only [isHexDigit, hexVal, Bool.or_eq_true, Bool.and_eq_true, decide_eq_true_eq]
  split_ifs <;> bv_omega

theorem hexVal_lt {c : Byte} (h : isHexDigit c = true) : (hexVal c).toNat < 16 := by
  have hvalue : hexDigitValue c (hexVal c).toNat := (hexDigitValue_iff c _).2 ⟨h, rfl⟩
  omega

/-- A byte is spelled by two digits exactly when it has them as nibbles, the first one high (R79). -/
theorem exists_hexDigitValue_pair_iff (c d b : Byte) :
    (∃ hi lo : Nat, hexDigitValue c hi ∧ hexDigitValue d lo ∧ b.toNat = 16 * hi + lo) ↔
      (isHexDigit c = true ∧ isHexDigit d = true) ∧ b = 16 * hexVal c + hexVal d := by
  simp only [hexDigitValue_iff]
  constructor
  · rintro ⟨_, _, ⟨hc, rfl⟩, ⟨hd, rfl⟩, hb⟩
    exact ⟨⟨hc, hd⟩, by bv_omega⟩
  · rintro ⟨⟨hc, hd⟩, hb⟩
    have hclt := hexVal_lt hc
    have hdlt := hexVal_lt hd
    exact ⟨_, _, ⟨hc, rfl⟩, ⟨hd, rfl⟩, by bv_omega⟩

/-- The digit that the display form writes for a nibble has the nibble's value. -/
theorem hexDigitValue_hexDigitOf {v : Byte} (h : v.toNat < 16) : hexDigitValue (hexDigitOf v) v.toNat := by
  simp only [hexDigitOf, hexDigitValue]
  split_ifs <;> bv_omega

/-- Every byte is spelled by the digits of its two nibbles. -/
theorem exists_hexDigitValue_nibbles (b : Byte) : ∃ hi lo : Nat,
    hexDigitValue (hexDigitOf (b >>> 4)) hi ∧ hexDigitValue (hexDigitOf (b &&& 0x0F)) lo ∧ b.toNat = 16 * hi + lo := by
  have hhigh : (b >>> 4).toNat = b.toNat / 16 := by rw [BitVec.toNat_ushiftRight, Nat.shiftRight_eq_div_pow]
  have hlow : (b &&& 0x0F).toNat = b.toNat % 16 := by
    rw [BitVec.toNat_and]; exact Nat.and_two_pow_sub_one_eq_mod b.toNat 4
  exact ⟨_, _, hexDigitValue_hexDigitOf (by omega), hexDigitValue_hexDigitOf (by omega), by omega⟩

end Sys2Proof.Machine
end

section
/-! SUPPORT. The parser and `PARSE` (spec/40_uuid_parse.md): what the parser's three tests say, exactly when it accepts and
with which key, a text for every key, and the case of the letters. -/

namespace Sys2Proof.Machine

theorem separatorsOk_iff (s : UuidText) :
    separatorsOk s = true ↔ s[8] = 0x2D ∧ s[13] = 0x2D ∧ s[18] = 0x2D ∧ s[23] = 0x2D := by
  simp [separatorsOk, hyphenPositions, hyphen]

/-- The positions of R76's table are `hi(i)`. -/
theorem highDigitTable_eq_highDigitPos : ∀ i : Fin 16, (highDigitTable[i]).val = highDigitPos i := by
  decide

/-- The 32 digit positions are the two of each key byte (R76). -/
theorem mem_digitPositions_iff : ∀ p : Fin 36,
    p ∈ digitPositions ↔ ∃ i : Fin 16, p.val = highDigitPos i ∨ p.val = highDigitPos i + 1 := by
  decide

theorem digitsOk_iff (s : UuidText) :
    digitsOk s = true ↔ ∀ i : Fin 16,
      isHexDigit (s[highDigitPos i]'(by have := highDigitPos_lt i; omega)) = true ∧
        isHexDigit (s[highDigitPos i + 1]'(highDigitPos_lt i)) = true := by
  simp only [digitsOk, List.all_eq_true, mem_digitPositions_iff]
  constructor
  · intro h i
    have hlt := highDigitPos_lt i
    exact ⟨h ⟨highDigitPos i, by omega⟩ ⟨i, .inl rfl⟩, h ⟨highDigitPos i + 1, hlt⟩ ⟨i, .inr rfl⟩⟩
  · rintro h ⟨p, _⟩ ⟨i, rfl | rfl⟩
    · exact (h i).1
    · exact (h i).2

theorem parseUuid_eq_some_iff (len : Byte) (s : UuidText) (k : Block) :
    parseUuid len s = some k ↔
      len.toNat = 36 ∧ separatorsOk s = true ∧ digitsOk s = true ∧ ∀ i : Fin 16, k[i] = uuidByte s i := by
  have hkey : Vector.ofFn (uuidByte s) = k ↔ ∀ i : Fin 16, k[i] = uuidByte s i := by
    simp [Vector.ext_iff, Fin.forall_iff, eq_comm]
  rw [← hkey]
  simp [parseUuid, Config.strBytes]

/-- Settles O25: the digits of each key byte are tested and read together. -/
theorem parserAcceptsExactlyTheCanonicalForm : Obligations.ParserAcceptsExactlyTheCanonicalForm := by
  intro len s k
  rw [parseUuid_eq_some_iff, separatorsOk_iff, digitsOk_iff, ← forall_and]
  simp only [exists_hexDigitValue_pair_iff, highDigitTable_eq_highDigitPos, uuidByte, and_assoc]

/-- The canonical text of a key in lower case, grouped 8-4-4-4-12 (R75). -/
def canonicalText (k : Block) : UuidText :=
  let hi (i : Fin 16) : Byte := hexDigitOf (k[i] >>> 4)
  let lo (i : Fin 16) : Byte := hexDigitOf (k[i] &&& 0x0F)
  #v[hi 0, lo 0, hi 1, lo 1, hi 2, lo 2, hi 3, lo 3, hyphen,
    hi 4, lo 4, hi 5, lo 5, hyphen,
    hi 6, lo 6, hi 7, lo 7, hyphen,
    hi 8, lo 8, hi 9, lo 9, hyphen,
    hi 10, lo 10, hi 11, lo 11, hi 12, lo 12, hi 13, lo 13, hi 14, lo 14, hi 15, lo 15]

theorem canonicalText_digits (k : Block) (i : Fin 16) :
    (canonicalText k)[(highDigitTable[i]).val]'(by omega) = hexDigitOf (k[i] >>> 4) ∧
      (canonicalText k)[(highDigitTable[i]).val + 1]'(by omega) = hexDigitOf (k[i] &&& 0x0F) := by
  fin_cases i <;> exact ⟨rfl, rfl⟩

theorem parseUuid_canonicalText (k : Block) : parseUuid 36 (canonicalText k) = some k := by
  refine (parserAcceptsExactlyTheCanonicalForm 36 (canonicalText k) k).2 ⟨rfl, rfl, rfl, rfl, rfl, fun i => ?_⟩
  obtain ⟨hhigh, hlow⟩ := canonicalText_digits k i
  rw [hhigh, hlow]
  exact exists_hexDigitValue_nibbles k[i]

/-- Settles O26, by the canonical text of the key. -/
theorem everyKeyHasAText : Obligations.EveryKeyHasAText := fun k => ⟨canonicalText k, parseUuid_canonicalText k⟩

/-- `d` is the character `c`, or the lower-case form of the letter `c` out of `A`..`F`. -/
def SameUpToCase (c d : Byte) : Prop := d = c ∨ (0x41 ≤ c.toNat ∧ c.toNat ≤ 0x46 ∧ d = c + 0x20)

theorem upperCase_letter_reads_equal : ∀ c : Byte, 0x41 ≤ c.toNat → c.toNat ≤ 0x46 →
    (c + 0x20 == hyphen) = (c == hyphen) ∧ isHexDigit (c + 0x20) = isHexDigit c ∧ hexVal (c + 0x20) = hexVal c := by
  decide

/-- The case of a letter matters neither to the test for a hyphen nor to the test and the value of a digit. -/
theorem SameUpToCase.reads_equal {c d : Byte} (h : SameUpToCase c d) :
    (d == hyphen) = (c == hyphen) ∧ isHexDigit d = isHexDigit c ∧ hexVal d = hexVal c := by
  obtain rfl | ⟨hge, hle, rfl⟩ := h
  · exact ⟨rfl, rfl, rfl⟩
  · exact upperCase_letter_reads_equal c hge hle

/-- Settles O27: each test of the parser and each key byte reads the characters up to case. -/
theorem parserIgnoresCase : Obligations.ParserIgnoresCase := by
  intro len s s' h
  have hread := fun p : Fin 36 => SameUpToCase.reads_equal (h p)
  have hseparators : separatorsOk s' = separatorsOk s := by
    simp only [separatorsOk, fun p => (hread p).1]
  have hdigits : digitsOk s' = digitsOk s := by
    simp only [digitsOk, fun p => (hread p).2.1]
  have hbytes : uuidByte s' = uuidByte s := by
    funext i
    have hlt := highDigitPos_lt i
    have hhigh := (hread ⟨highDigitPos i, by omega⟩).2.2
    have hlow := (hread ⟨highDigitPos i + 1, hlt⟩).2.2
    simp only [Fin.getElem_fin] at hhigh hlow
    rw [uuidByte, hhigh, hlow, uuidByte]
  rw [parseUuid, hseparators, hdigits, hbytes, parseUuid]

/-- Settles O28, by the two equations of `PARSE`. -/
theorem parseCommand : Obligations.ParseCommand := fun _ =>
  ⟨fun _ hk => exec_parse_of_some hk, fun hk => statusOfErr_parseError ▸ exec_parse_of_none hk⟩

end Sys2Proof.Machine
end

section
/-! SUPPORT. Multiplication in GF(2^8) (spec/41_aes_ecb.md R90, R91). It is additive in both arguments and commutes with
`xtime`, and the bytes `xtime^i(0x01)` span all bytes under exclusive-or; the laws follow from these facts. -/

namespace Sys2Proof.Machine

/-! ### Multiplication by `0x02` -/

/-- Selecting a byte by an exclusive-or of two bits is selecting it by each of them. -/
theorem ite_bool_xor (p q : Bool) (x : Byte) :
    (if p ^^ q then x else 0) = (if p then x else 0) ^^^ (if q then x else 0) := by
  cases p <;> cases q <;> simp

theorem xtime_eq_xor (a : Byte) : xtime a = (a <<< 1) ^^^ (if a.getLsbD 7 then 0x1B else 0) := by
  unfold xtime; split_ifs <;> simp

theorem xtime_xor (a b : Byte) : xtime (a ^^^ b) = xtime a ^^^ xtime b := by
  simp only [xtime_eq_xor, BitVec.getLsbD_xor, BitVec.shiftLeft_xor_distrib, ite_bool_xor]
  ac_rfl

theorem xtimePow_xor (i : Nat) (a b : Byte) : xtimePow i (a ^^^ b) = xtimePow i a ^^^ xtimePow i b := by
  induction i with
  | zero => rfl
  | succ i ih => simp only [xtimePow, ih, xtime_xor]

theorem xtimePow_xtime (i : Nat) (a : Byte) : xtimePow i (xtime a) = xtime (xtimePow i a) := by
  induction i with
  | zero => rfl
  | succ i ih => simp only [xtimePow, ih]

/-! ### Multiplication, one bit of the second argument at a time -/

/-- The summand of R91 for bit `i`: `xtime^i(a)` if bit `i` of `b` is set. -/
def gfTerm (a b : Byte) (i : Nat) : Byte := if b.getLsbD i then xtimePow i a else 0

theorem gfMul_eq_foldl (a b : Byte) : gfMul a b = (List.range 8).foldl (fun acc i => acc ^^^ gfTerm a b i) 0 := by
  refine List.foldl_ext _ _ 0 fun acc i _ => ?_
  unfold gfTerm; split_ifs <;> simp

theorem gfTerm_xor_left (a a' b : Byte) (i : Nat) : gfTerm (a ^^^ a') b i = gfTerm a b i ^^^ gfTerm a' b i := by
  unfold gfTerm; split_ifs <;> simp [xtimePow_xor]

theorem gfTerm_xor_right (a b b' : Byte) (i : Nat) : gfTerm a (b ^^^ b') i = gfTerm a b i ^^^ gfTerm a b' i := by
  simp only [gfTerm, BitVec.getLsbD_xor, ite_bool_xor]

theorem gfTerm_xtime_left (a b : Byte) (i : Nat) : gfTerm (xtime a) b i = xtime (gfTerm a b i) := by
  unfold gfTerm; split_ifs
  · exact xtimePow_xtime i a
  · rfl

/-- The exclusive-or of sums term by term is the exclusive-or of the sums. -/
theorem foldl_xor_xor (l : List Nat) (f g : Nat → Byte) :
    l.foldl (fun acc i => acc ^^^ (f i ^^^ g i)) 0 =
      l.foldl (fun acc i => acc ^^^ f i) 0 ^^^ l.foldl (fun acc i => acc ^^^ g i) 0 := by
  rw [← List.foldl_hom₂ l (· ^^^ ·) _ _ (fun acc i => acc ^^^ (f i ^^^ g i)) 0 0 fun x y i => ?_]
  · rfl
  · ac_rfl

theorem gfMul_xor_left (a a' b : Byte) : gfMul (a ^^^ a') b = gfMul a b ^^^ gfMul a' b := by
  simp only [gfMul_eq_foldl, gfTerm_xor_left, foldl_xor_xor]

theorem gfMul_xor_right (a b b' : Byte) : gfMul a (b ^^^ b') = gfMul a b ^^^ gfMul a b' := by
  simp only [gfMul_eq_foldl, gfTerm_xor_right, foldl_xor_xor]

theorem gfMul_xtime_left (a b : Byte) : gfMul (xtime a) b = xtime (gfMul a b) := by
  simp only [gfMul_eq_foldl]
  refine List.foldl_hom xtime (init := 0) fun x i => ?_
  rw [gfTerm_xtime_left, xtime_xor]

theorem gfMul_xtimePow_left (i : Nat) (a b : Byte) : gfMul (xtimePow i a) b = xtimePow i (gfMul a b) := by
  induction i with
  | zero => rfl
  | succ i ih => rw [xtimePow, gfMul_xtime_left, ih, xtimePow]

theorem gfMul_zero_left (a : Byte) : gfMul 0x00 a = 0x00 := by
  simpa using gfMul_xor_left 0x00 0x00 a

theorem gfMul_zero_right (a : Byte) : gfMul a 0x00 = 0x00 := by
  simpa using gfMul_xor_right a 0x00 0x00

theorem gfMul_one_right (a : Byte) : gfMul a 0x01 = a := BitVec.zero_xor

/-- Every byte is the exclusive-or of the single bits set in it, which are the powers of `0x02`. -/
theorem gfMul_one_left : ∀ a : Byte, gfMul 0x01 a = a := by
  decide

theorem gfMul_xtimePow_one_right (a : Byte) : ∀ i < 8, gfMul a (xtimePow i 0x01) = xtimePow i a := by
  intro i hi
  interval_cases i <;> exact BitVec.zero_xor

/-- A property of zero and of the powers of `0x02` that exclusive-or keeps is one of every byte. -/
theorem byte_xor_induction {p : Byte → Prop} (zero : p 0) (xor : ∀ a b, p a → p b → p (a ^^^ b))
    (pow : ∀ i < 8, p (xtimePow i 0x01)) (a : Byte) : p a := by
  rw [← gfMul_one_left a, gfMul_eq_foldl]
  refine List.foldlRecOn _ _ zero fun acc hacc i hi => ?_
  refine xor acc _ hacc ?_
  unfold gfTerm; split_ifs
  · exact pow i (List.mem_range.1 hi)
  · exact zero

theorem gfMul_comm (a b : Byte) : gfMul a b = gfMul b a := by
  induction a using byte_xor_induction with
  | zero => rw [gfMul_zero_left, gfMul_zero_right]
  | xor a a' ha ha' => rw [gfMul_xor_left, gfMul_xor_right, ha, ha']
  | pow i hi => rw [gfMul_xtimePow_left, gfMul_one_left, gfMul_xtimePow_one_right b i hi]

theorem gfMul_assoc (a b c : Byte) : gfMul (gfMul a b) c = gfMul a (gfMul b c) := by
  induction a using byte_xor_induction with
  | zero => simp only [gfMul_zero_left]
  | xor a a' ha ha' => simp only [gfMul_xor_left, ha, ha']
  | pow i _ => simp only [gfMul_xtimePow_left, gfMul_one_left]

theorem gfMul_two (a : Byte) : gfMul 0x02 a = mulBy2 a := by
  have htwo : (0x02 : Byte) = xtime 0x01 := rfl
  rw [htwo, gfMul_xtime_left, gfMul_one_left, mulBy2]

theorem gfMul_three (a : Byte) : gfMul 0x03 a = mulBy3 a := by
  have hthree : (0x03 : Byte) = 0x02 ^^^ 0x01 := rfl
  rw [hthree, gfMul_xor_left, gfMul_two, gfMul_one_left, mulBy2, mulBy3]

/-- Settles O29, by induction on the bits of the first argument. -/
theorem fieldMultiplicationLaws : Obligations.FieldMultiplicationLaws :=
  ⟨gfMul_comm, gfMul_assoc, gfMul_xor_right, gfMul_one_right, gfMul_zero_right, gfMul_two, gfMul_three, by decide,
    by decide⟩

end Sys2Proof.Machine
end

section
/-! SUPPORT. The S-box (spec/41_aes_ecb.md R92, R93). Undoing the affine map of R92 on an entry of the table gives the
inverse of its index; inverses are unique, so the table is the function R92 constructs, and it is one-to-one. -/

namespace Sys2Proof.Machine

/-- The inverse of the affine map of R92. -/
def sboxAffineInv (y : Byte) : Byte := rotl8 y 1 ^^^ rotl8 y 3 ^^^ rotl8 y 6 ^^^ 0x05

theorem sboxAffine_sboxAffineInv : ∀ y : Byte, sboxAffine (sboxAffineInv y) = y := by
  decide

/-- An entry of the table holds the inverse of its index. -/
theorem gfMul_sboxAffineInv_sbox : ∀ a : Byte, a ≠ 0x00 → gfMul a (sboxAffineInv (sbox a)) = 0x01 := by
  decide

/-- Two inverses of one byte are equal. -/
theorem gfMul_inverse_unique {a b c : Byte} (hb : gfMul a b = 0x01) (hc : gfMul a c = 0x01) : b = c :=
  calc b = gfMul (gfMul a c) b := by rw [hc, gfMul_one_left]
    _ = gfMul c (gfMul a b) := by rw [gfMul_comm a c, gfMul_assoc]
    _ = c := by rw [hb, gfMul_one_right]

theorem ne_zero_of_gfMul_eq_one {a b : Byte} (h : gfMul a b = 0x01) : a ≠ 0x00 := by
  rintro rfl
  rw [gfMul_zero_left] at h
  exact absurd h (by decide)

theorem sbox_of_gfMul_eq_one {a b : Byte} (h : gfMul a b = 0x01) : sbox a = sboxAffine b := by
  rw [← sboxAffine_sboxAffineInv (sbox a),
    gfMul_inverse_unique (gfMul_sboxAffineInv_sbox a (ne_zero_of_gfMul_eq_one h)) h]

/-- What the search of `gfInv` finds is an inverse; it finds nothing when there is none. -/
theorem gfInv_cases (a : Byte) :
    gfMul a (gfInv a) = 0x01 ∨ (gfInv a = 0x00 ∧ ∀ b : Byte, gfMul a b ≠ 0x01) := by
  unfold gfInv
  split
  next n hn => exact .inl (by simpa using List.find?_some hn)
  next hnone =>
    refine .inr ⟨rfl, fun b hb => ?_⟩
    exact List.find?_eq_none.1 hnone b.toNat (List.mem_range.2 b.isLt) (by simp [hb])

theorem sbox_eq_sboxByRule (a : Byte) : sbox a = sboxByRule a := by
  obtain hinv | ⟨hzero, hnone⟩ := gfInv_cases a
  · exact sbox_of_gfMul_eq_one hinv
  · have ha : a = 0x00 := by_contra fun hne => hnone _ (gfMul_sboxAffineInv_sbox a hne)
    rw [sboxByRule, hzero, ha]
    rfl

/-- Settles O30: an entry of the table is the affine map of the one inverse of its index. -/
theorem sboxTableIsItsConstruction : Obligations.SboxTableIsItsConstruction :=
  ⟨by decide, fun a ha => ⟨_, gfMul_sboxAffineInv_sbox a ha⟩, fun _ _ h => sbox_of_gfMul_eq_one h, sbox_eq_sboxByRule⟩

theorem gfInv_of_gfMul_eq_one {a b : Byte} (h : gfMul a b = 0x01) : gfInv b = a := by
  have hba : gfMul b a = 0x01 := gfMul_comm b a ▸ h
  exact (gfInv_cases b).elim (fun hinv => gfMul_inverse_unique hinv hba) fun hnone => absurd hba (hnone.2 a)

theorem gfInv_zero : gfInv 0x00 = 0x00 :=
  (gfInv_cases 0x00).elim (fun hinv => absurd rfl (ne_zero_of_gfMul_eq_one hinv)) And.left

/-- The inverse S-box: undo the affine map, then invert. -/
theorem gfInv_sboxAffineInv_sbox (a : Byte) : gfInv (sboxAffineInv (sbox a)) = a := by
  by_cases ha : a = 0x00
  · have hentry : sboxAffineInv (sbox 0x00) = 0x00 := by decide
    rw [ha, hentry, gfInv_zero]
  · exact gfInv_of_gfMul_eq_one (gfMul_sboxAffineInv_sbox a ha)

theorem sbox_injective : Function.Injective sbox :=
  Function.LeftInverse.injective (g := fun y => gfInv (sboxAffineInv y)) gfInv_sboxAffineInv_sbox

theorem sbox_ne_self : ∀ a : Byte, sbox a ≠ a := by
  decide

/-- Settles O31: the S-box has an inverse. -/
theorem sboxIsPermutationWithoutFixedPoint : Obligations.SboxIsPermutationWithoutFixedPoint :=
  ⟨Finite.injective_iff_bijective.1 sbox_injective, sbox_ne_self⟩

end Sys2Proof.Machine
end

section
/-! SUPPORT. The transformations of the cipher's state in the array view (spec/41_aes_ecb.md R94 to R98, R102), each of
them one-to-one, and the rounds made of them (R103). -/

namespace Sys2Proof.Machine

/-! ### The array view -/

/-- A block is its sixteen cells. -/
theorem block_ext_cell {t u : Block} (h : ∀ r c, cell t r c = cell u r c) : t = u := by
  apply Vector.ext
  intro i hi
  have hcell := h ⟨i % 4, by omega⟩ ⟨i / 4, by omega⟩
  simpa only [cell, Nat.mod_add_div] using hcell

theorem cell_subBytes (t : Block) (r c : Fin 4) : cell (subBytes t) r c = sbox (cell t r c) :=
  subBytes_getElem t _ _

theorem cell_shiftRows (t : Block) (r c : Fin 4) : cell (shiftRows t) r c = cell t r (c + r) := by
  have hindex : (r.val + 4 * c.val + 4 * ((r.val + 4 * c.val) % 4)) % 16 = r.val + 4 * (c + r).val := by
    rw [Fin.val_add]; omega
  simp only [cell, shiftRows_getElem, hindex]

theorem cell_addRoundKey (t rk : Block) (r c : Fin 4) :
    cell (addRoundKey t rk) r c = cell t r c ^^^ rk[r.val + 4 * c.val] :=
  addRoundKey_getElem t rk _ _

theorem cell_mixColumns (t : Block) (r c : Fin 4) :
    cell (mixColumns t) r c = mixColumnByte r (cell t 0 c) (cell t 1 c) (cell t 2 c) (cell t 3 c) := by
  have hrow : (r.val + 4 * c.val) % 4 = r.val := by omega
  have hcolumn : (r.val + 4 * c.val) / 4 = c.val := by omega
  simp [cell, mixColumns, hrow, hcolumn, Nat.add_comm]

/-- Settles O32, transformation by transformation. -/
theorem transformationsInTheArrayView : Obligations.TransformationsInTheArrayView := fun t rk r c =>
  ⟨cell_subBytes t r c, cell_shiftRows t r c, cell_addRoundKey t rk r c⟩

/-- Settles O33: the two multipliers of `MixColumns` are products of R91. -/
theorem mixColumnsIsTheMatrixProduct : Obligations.MixColumnsIsTheMatrixProduct := by
  intro t c
  simp only [gfMul_two, gfMul_three]
  exact ⟨cell_mixColumns t 0 c, cell_mixColumns t 1 c, cell_mixColumns t 2 c, cell_mixColumns t 3 c⟩

/-! ### The transformations are one-to-one -/

theorem subBytes_injective : Function.Injective subBytes := by
  intro t u h
  refine block_ext_cell fun r c => sbox_injective ?_
  rw [← cell_subBytes, ← cell_subBytes, h]

theorem shiftRows_injective : Function.Injective shiftRows := by
  intro t u h
  refine block_ext_cell fun r c => ?_
  have hcell := congrArg (fun x => cell x r (c - r)) h
  simpa only [cell_shiftRows, sub_add_cancel] using hcell

theorem addRoundKey_injective (rk : Block) : Function.Injective fun t => addRoundKey t rk :=
  Function.LeftInverse.injective (g := fun t => xorBlock t rk) fun t => xorBlock_cancel_right t rk

/-- The matrix of R98 is circulant: every row takes its own byte and those below it with the coefficients of row 0. -/
theorem cell_mixColumns_circulant (t : Block) (r c : Fin 4) : cell (mixColumns t) r c =
    xtime (cell t r c) ^^^ xtime (cell t (r + 1) c) ^^^ cell t (r + 1) c ^^^ cell t (r + 2) c ^^^ cell t (r + 3) c := by
  rw [cell_mixColumns]
  match r with
  | 0 | 1 | 2 | 3 => simp only [mixColumnByte, mulBy2, mulBy3, Fin.isValue, Fin.reduceAdd]; ac_rfl

theorem byte_xor_left_comm (a b c : Byte) : a ^^^ (b ^^^ c) = b ^^^ (a ^^^ c) := by ac_rfl

theorem byte_xor_cancel_left (a b : Byte) : a ^^^ (a ^^^ b) = b := by
  rw [← BitVec.xor_assoc, BitVec.xor_self, BitVec.zero_xor]

/-- `MixColumns` done twice: the square of the matrix of R98 has two non-zero entries in a row, `0x05` and `0x04`. -/
theorem cell_mixColumns_mixColumns (t : Block) (r c : Fin 4) :
    cell (mixColumns (mixColumns t)) r c = cell t r c ^^^ xtime (xtime (cell t r c ^^^ cell t (r + 2) c)) := by
  simp only [cell_mixColumns_circulant, add_assoc, Fin.isValue, Fin.reduceAdd, add_zero, xtime_xor]
  generalize cell t r c = a0, cell t (r + 1) c = a1, cell t (r + 2) c = a2, cell t (r + 3) c = a3
  simp only [BitVec.xor_assoc, BitVec.xor_comm, byte_xor_left_comm, byte_xor_cancel_left]

/-- The added terms of two rows are equal, so doing `MixColumns` twice is undone by doing it twice again. -/
theorem mixColumns_four_times (t : Block) : mixColumns (mixColumns (mixColumns (mixColumns t))) = t := by
  refine block_ext_cell fun r c => ?_
  simp only [cell_mixColumns_mixColumns, add_assoc, Fin.isValue, Fin.reduceAdd, add_zero]
  generalize cell t r c = a, cell t (r + 2) c = b
  rw [BitVec.xor_comm b a]
  generalize hx : xtime (xtime (a ^^^ b)) = x
  have hsum : (a ^^^ x) ^^^ (b ^^^ x) = a ^^^ b := by simp [BitVec.xor_assoc, byte_xor_left_comm x]
  rw [hsum, hx, BitVec.xor_assoc, BitVec.xor_self, BitVec.xor_zero]

theorem mixColumns_injective : Function.Injective mixColumns :=
  Function.LeftInverse.injective (g := fun t => mixColumns (mixColumns (mixColumns t))) mixColumns_four_times

/-! ### The rounds -/

theorem cipherState_zero (k p : Block) : cipherState k p 0 = addRoundKey p (roundKey k 0) := rfl

theorem cipherState_succ (k p : Block) (n : Nat) :
    cipherState k p (n + 1) = cipherRound (cipherState k p n) (roundKey k (n + 1)) := by
  rw [cipherState, List.range'_1_concat, List.foldl_append, Nat.add_comm 1 n]
  rfl

/-- Settles O35, by the rounds of the cipher one at a time. -/
theorem cipherRounds : Obligations.CipherRounds := fun k p =>
  ⟨cipherState_zero k p, cipherState_succ k p, rfl⟩

theorem cipherRound_injective (rk : Block) : Function.Injective fun t => cipherRound t rk :=
  (addRoundKey_injective rk).comp (mixColumns_injective.comp (shiftRows_injective.comp subBytes_injective))

theorem finalRound_injective (rk : Block) : Function.Injective fun t => finalRound t rk :=
  (addRoundKey_injective rk).comp (shiftRows_injective.comp subBytes_injective)

theorem cipherState_injective (k : Block) (n : Nat) : Function.Injective fun p => cipherState k p n := by
  induction n with
  | zero => exact addRoundKey_injective (roundKey k 0)
  | succ n ih =>
    simp only [cipherState_succ]
    exact (cipherRound_injective (roundKey k (n + 1))).comp ih

theorem aes_injective (k : Block) : Function.Injective (aes k) :=
  (finalRound_injective (roundKey k Config.nr)).comp (cipherState_injective k (Config.nr - 1))

/-- Settles O36: every round is one-to-one, and there are finitely many blocks. -/
theorem cipherIsABijection : Obligations.CipherIsABijection := by
  intro k
  have hfinite : Finite Block := Finite.of_injective blockDigits blockDigits_injective
  exact Finite.injective_iff_bijective.1 (aes_injective k)

end Sys2Proof.Machine
end

section
/-! SUPPORT. The key expansion (spec/41_aes_ecb.md R99 to R101). The list of words only grows, so a word keeps its place,
and each later word is made from words that are in the finished list. -/

namespace Sys2Proof.Machine

/-- The words made after `n` rounds of the loop of R101: the key's own and `n` more. -/
def keyWordsUpTo (k : Block) (n : Nat) : List KeyWord :=
  (List.range' 4 n).foldl (fun ws i => ws ++ [nextWord ws i]) [keyWord k 0, keyWord k 1, keyWord k 2, keyWord k 3]

theorem keyWords_eq_upTo (k : Block) : keyWords k = keyWordsUpTo k 40 := rfl

theorem keyWordsUpTo_succ (k : Block) (n : Nat) :
    keyWordsUpTo k (n + 1) = keyWordsUpTo k n ++ [nextWord (keyWordsUpTo k n) (4 + n)] := by
  rw [keyWordsUpTo, List.range'_1_concat, List.foldl_append]
  rfl

theorem length_keyWordsUpTo (k : Block) (n : Nat) : (keyWordsUpTo k n).length = 4 + n := by
  induction n with
  | zero => rfl
  | succ n ih => rw [keyWordsUpTo_succ, List.length_append, ih]; rfl

theorem length_keyWords (k : Block) : (keyWords k).length = 44 := length_keyWordsUpTo k 40

/-- A word made keeps its place. -/
theorem keyWordsUpTo_prefix (k : Block) {m n : Nat} (h : m ≤ n) : keyWordsUpTo k m <+: keyWordsUpTo k n := by
  induction n, h using Nat.le_induction with
  | base => exact List.prefix_rfl
  | succ n _ ih => exact ih.trans (keyWordsUpTo_succ k n ▸ List.prefix_append _ _)

theorem keyWords_getElem?_eq {k : Block} {n i : Nat} (hn : n ≤ 40) (hi : i < 4 + n) :
    (keyWords k)[i]? = (keyWordsUpTo k n)[i]? := by
  have hlen : i < (keyWordsUpTo k n).length := (length_keyWordsUpTo k n).symm ▸ hi
  rw [keyWords_eq_upTo, List.prefix_iff_getElem?.1 (keyWordsUpTo_prefix k hn) i hlen, List.getElem?_eq_getElem hlen]

/-- A word depends on two of the words before it. -/
theorem nextWord_congr {ws ws' : List KeyWord} {i : Nat} (h4 : ws[i - 4]? = ws'[i - 4]?)
    (h1 : ws[i - 1]? = ws'[i - 1]?) : nextWord ws i = nextWord ws' i := by
  simp only [nextWord, List.getD_eq_getElem?_getD, h4, h1]

theorem keyWords_getElem?_key (k : Block) (i : Fin 4) : (keyWords k)[i.val]? = some (keyWord k i) := by
  rw [keyWords_getElem?_eq (Nat.zero_le 40) i.isLt]
  fin_cases i <;> rfl

theorem keyWords_getElem?_next (k : Block) {i : Nat} (h4 : 4 ≤ i) (h44 : i < 44) :
    (keyWords k)[i]? = some (nextWord (keyWords k) i) := by
  obtain ⟨n, rfl⟩ := Nat.exists_eq_add_of_le h4
  have hkeep : ∀ j < 4 + n, (keyWords k)[j]? = (keyWordsUpTo k n)[j]? := fun j hj => keyWords_getElem?_eq (by omega) hj
  rw [nextWord_congr (hkeep _ (by omega)) (hkeep _ (by omega)), keyWords_getElem?_eq (n := n + 1) (by omega) (by omega),
    keyWordsUpTo_succ, List.getElem?_append_right (by rw [length_keyWordsUpTo]), length_keyWordsUpTo]
  simp

/-- Every index of R101 names a word. -/
theorem keyWords_getElem?_getD (k : Block) {i : Nat} (h : i < 44) :
    (keyWords k)[i]? = some ((keyWords k).getD i zeroWord) := by
  have hlen : i < (keyWords k).length := (length_keyWords k).symm ▸ h
  rw [List.getElem?_eq_getElem hlen, List.getD_eq_getElem _ _ hlen]

/-- The bytes of a later word, from the bytes of the two words it is made of (R100, R101). -/
theorem nextWord_bytes (ws : List KeyWord) (i : Nat) {w4 w1 : KeyWord} (h4 : ws.getD (i - 4) zeroWord = w4)
    (h1 : ws.getD (i - 1) zeroWord = w1) : nextWord ws i =
      if i % 4 = 0 then
        #v[w4[0] ^^^ (sbox w1[1] ^^^ rcon (i / 4)), w4[1] ^^^ sbox w1[2], w4[2] ^^^ sbox w1[3], w4[3] ^^^ sbox w1[0]]
      else #v[w4[0] ^^^ w1[0], w4[1] ^^^ w1[1], w4[2] ^^^ w1[2], w4[3] ^^^ w1[3]] := by
  rw [nextWord, h4, h1]
  split_ifs
  · apply Vector.ext
    intro j hj
    interval_cases j <;> simp [rotWord, rconWord]
  · apply Vector.ext
    intro j hj
    interval_cases j <;> simp

theorem rcon_succ {j : Nat} (h : 1 ≤ j) : rcon (j + 1) = xtime (rcon j) := by
  obtain ⟨m, rfl⟩ := Nat.exists_eq_add_of_le' h
  rfl

theorem keyWord_getElem (k : Block) (i j : Fin 4) : (keyWord k i)[j] = k[4 * i.val + j.val] :=
  Vector.getElem_ofFn _

theorem keyWords_getD_key (k : Block) (i : Fin 4) : (keyWords k).getD i zeroWord = keyWord k i := by
  rw [List.getD_eq_getElem?_getD, keyWords_getElem?_key, Option.getD_some]

theorem roundKey_getElem (k : Block) (r : Nat) (j : Fin 16) :
    (roundKey k r)[j] = ((keyWords k).getD (4 * r + j.val / 4) zeroWord)[j.val % 4]'(by omega) :=
  Vector.getElem_ofFn _

/-- The first round key is the key (R101). -/
theorem roundKey_zero (k : Block) : roundKey k 0 = k := by
  apply Vector.ext
  intro j hj
  have hword : (keyWords k).getD (4 * 0 + j / 4) zeroWord = keyWord k ⟨j / 4, by omega⟩ := by
    rw [Nat.mul_zero, Nat.zero_add]; exact keyWords_getD_key k ⟨j / 4, by omega⟩
  have hbyte := keyWord_getElem k ⟨j / 4, by omega⟩ ⟨j % 4, by omega⟩
  have hround := roundKey_getElem k 0 ⟨j, hj⟩
  simp only [hword] at hround
  simp only [Fin.getElem_fin, Nat.div_add_mod] at hround hbyte
  exact hround.trans hbyte

/-- Settles O34: each word of R101 stands at its index, and its bytes are those of R100. -/
theorem keyExpansionRecurrence : Obligations.KeyExpansionRecurrence := by
  refine ⟨by decide, fun j => rcon_succ, fun k => ⟨length_keyWords k, fun i j => ?key, fun i h4 h44 => ?next,
    fun r j => ?round, roundKey_zero k⟩⟩
  case key => rw [keyWords_getElem?_key, Option.map_some, keyWord_getElem]
  case next =>
    exact ⟨_, _, _, keyWords_getElem?_next k h4 h44, keyWords_getElem?_getD k (by omega),
      keyWords_getElem?_getD k (by omega), nextWord_bytes _ i rfl rfl⟩
  case round =>
    rw [keyWords_getElem?_getD k (by omega), Option.map_some, roundKey_getElem]

end Sys2Proof.Machine
end

section
/-! SUPPORT. `ECBENC` (spec/41_aes_ecb.md R105) and the host's block loop (R104): load a block, encrypt it,
read it back. -/

namespace Sys2Proof.Machine

/-- Settles O37, by the equation of the command. -/
theorem ecbencCommand : Obligations.EcbencCommand := exec_ecbenc

/-- `ldblk` puts a block into `BLKIN`; the key and the host's side stay (R66). -/
theorem transactAll_ldblk (p : Block) (s : State) :
    ∃ t, transactAll (lineTransactions (.ldblk p.toList)) s = .next t ∧ t.blkin = p ∧ t.key = s.key ∧
      t.replies = s.replies := by
  obtain ⟨t, ht, -, hreplies, hwritten, hframe⟩ :=
    transactAll_writesFrom (base := bufferBase .blkin) (bs := p.toList) (by decide) (by simp [bufferBase]) s
  refine ⟨t, ht, Vector.ext fun i hi => ?blkin, Vector.ext fun i hi => ?key, hreplies⟩
  case blkin =>
    have hloc : locate (BitVec.ofNat 8 (0x20 + i)) = .blkin ⟨i, hi⟩ := locate_address (.blkin ⟨i, hi⟩) _ rfl
    have hread : hostRead (BitVec.ofNat 8 (0x20 + i)) t = p.toList.getD i 0 :=
      hwritten i (by simpa using hi) (congrArg Loc.access hloc)
    rw [hostRead_ofNat (l := .blkin ⟨i, hi⟩) rfl] at hread
    simpa [loadByte, hi] using hread
  case key =>
    have hread : hostRead (BitVec.ofNat 8 (0x10 + i)) t = hostRead (BitVec.ofNat 8 (0x10 + i)) s :=
      hframe _ (.inl (by simp [bufferBase]; omega))
    rw [hostRead_ofNat (l := .key ⟨i, hi⟩) rfl, hostRead_ofNat (l := .key ⟨i, hi⟩) rfl] at hread
    exact hread

/-- Reading the sixteen addresses of `BLKOUT` returns its bytes. -/
theorem readBytes_blkout (s : State) :
    ((List.range' 0x30 16).map fun a => hostRead (BitVec.ofNat 8 a) s) = s.blkout.toList := by
  apply List.ext_getElem
  · simp
  · intro j hj _
    have hj16 : j < 16 := by simpa using hj
    have hread : hostRead (BitVec.ofNat 8 (0x30 + j)) s = s.blkout[j] := hostRead_ofNat (l := .blkout ⟨j, hj16⟩) rfl s
    simpa using hread

/-- One block of the loop: its encryption is appended to the replies, the key stays. -/
theorem transactAll_ecbLoop (p : Block) (s : State) :
    ∃ t, transactAll (ecbLoop p) s = .next t ∧ t.key = s.key ∧ t.replies = s.replies ++ (aes s.key p).toList := by
  obtain ⟨u, hload, hblkin, hkey, hreplies⟩ := transactAll_ldblk p s
  have hencrypt : transactAll (lineTransactions (.cmd .ecbenc)) u =
      .next ((u.setBlkout (aes s.key p)).setStatus statusOk) := by
    rw [lineTransactions, transactAll_singleton, transact_commandWrite, exec_ecbenc, hblkin, hkey]
  refine ⟨((u.setBlkout (aes s.key p)).setStatus statusOk).setReplies (s.replies ++ (aes s.key p).toList), ?_,
    by simp [hkey], by simp⟩
  rw [ecbLoop, transactAll_append, transactAll_append, hload, andThen_next, hencrypt, andThen_next,
    transactAll_readsFrom, readBytes_blkout]
  simp [hreplies]

/-- Settles O38, by induction on the blocks. -/
theorem hostLoopIsEcbMode : Obligations.HostLoopIsEcbMode := by
  intro s ps
  induction ps generalizing s with
  | nil => exact ⟨s, rfl, rfl, by simp⟩
  | cons p ps ih =>
    obtain ⟨u, hblock, hkey, hreplies⟩ := transactAll_ecbLoop p s
    obtain ⟨t, hrest, hkey', hreplies'⟩ := ih u
    refine ⟨t, ?_, hkey'.trans hkey, ?_⟩
    · rw [List.flatMap_cons, transactAll_append, hblock, andThen_next, hrest]
    · simp [hreplies', hreplies, hkey]

end Sys2Proof.Machine
end

section
/-! SUPPORT. Doubling (spec/42_cmac.md R115). Bit `j` of byte `i` of a block is bit `8*(15-i)+j` of its integer, so
doubling is compared with the shift of the integer one bit at a time. -/

namespace Sys2Proof.Machine

/-- The bits of a byte, in the integer of the block. -/
theorem getLsbD_byte (b : Block) {i j : Nat} (hi : i < 16) (hj : j < 8) :
    b[i].getLsbD j = (blockInt b).testBit (8 * (15 - i) + j) := by
  have hbyte : (bytes16 (blockInt b))[i] = BitVec.ofNat 8 (blockInt b / 2 ^ (8 * (15 - i))) := Vector.getElem_ofFn _
  rw [bytes16_blockInt] at hbyte
  rw [hbyte, BitVec.getLsbD_ofNat, Nat.testBit_div_two_pow, decide_eq_true hj, Bool.true_and, Nat.add_comm]

/-- A block whose bytes have the bits of `v` has the integer `v`. -/
theorem blockInt_eq_of_bits {b : Block} {v : Nat} (hv : v < 2 ^ 128)
    (h : ∀ i j, (hi : i < 16) → j < 8 → b[i].getLsbD j = v.testBit (8 * (15 - i) + j)) : blockInt b = v := by
  have hb : b = bytes16 v := by
    apply Vector.ext
    intro i hi
    apply BitVec.eq_of_getLsbD_eq
    intro j hj
    rw [h i j hi hj, getLsbD_byte _ hi hj, blockInt_bytes16 v hv]
  rw [hb, blockInt_bytes16 v hv]

theorem dbl_getElem_of_lt (b : Block) {i : Nat} (hi : i < 15) : (dbl b)[i] = (b[i] <<< 1) ||| (b[i + 1] >>> 7) := by
  simp [dbl, hi]

theorem dbl_getElem_last (b : Block) :
    (dbl b)[15] = (b[15] <<< 1) ^^^ (if b[0].getLsbD 7 then Config.rb else 0) := by
  simp only [dbl]
  split_ifs <;> simp [*]

theorem testBit_two_mul_succ (v j : Nat) : (2 * v).testBit (j + 1) = v.testBit j := by
  simp [Nat.testBit_succ]

/-- Each byte but the last takes its bits from one place lower in the integer; its lowest bit comes from the next byte. -/
theorem getLsbD_dbl_of_lt (b : Block) {i j : Nat} (hi : i < 15) (hj : j < 8) :
    (dbl b)[i].getLsbD j = (2 * blockInt b).testBit (8 * (15 - i) + j) := by
  rw [dbl_getElem_of_lt b hi]
  cases j with
  | zero =>
    have hplace : 8 * (15 - i) + 0 = (8 * (15 - (i + 1)) + 7) + 1 := by omega
    rw [hplace, testBit_two_mul_succ, ← getLsbD_byte b (by omega) (by decide)]
    simp
  | succ j =>
    have hnext : b[i + 1].getLsbD (7 + (j + 1)) = false := BitVec.getLsbD_of_ge _ _ (by omega)
    rw [← Nat.add_assoc, testBit_two_mul_succ, ← getLsbD_byte b (by omega) (by omega)]
    simp [hj, hnext, -BitVec.getLsbD_eq_getElem]

/-- The last byte, shifted, before the constant is added. -/
theorem getLsbD_shifted_last (b : Block) {j : Nat} (hj : j < 8) :
    (b[15] <<< 1).getLsbD j = (2 * blockInt b).testBit j := by
  cases j with
  | zero => simp
  | succ j =>
    have hbyte : b[15].getLsbD j = (blockInt b).testBit (8 * (15 - 15) + j) :=
      getLsbD_byte b (by decide) (Nat.lt_of_succ_lt hj)
    rw [Nat.sub_self, Nat.mul_zero, Nat.zero_add] at hbyte
    rw [testBit_two_mul_succ, ← hbyte]
    simp [hj, -BitVec.getLsbD_eq_getElem]

/-- The dropped bit decides what is added to the shifted integer; the added byte meets the bits of the last byte only. -/
theorem blockInt_dbl (b : Block) :
    blockInt (dbl b) = (2 * blockInt b % 2 ^ 128) ^^^ (if b[0].getLsbD 7 then Config.rb else 0).toNat := by
  generalize hr : (if b[0].getLsbD 7 then Config.rb else 0) = r
  have hlow : r.toNat < 2 ^ 8 := r.isLt
  apply blockInt_eq_of_bits
  · exact Nat.xor_lt_two_pow (Nat.mod_lt _ (by decide)) (hlow.trans (by decide))
  · intro i j hi hj
    have hplace : 8 * (15 - i) + j < 128 := by omega
    rw [Nat.testBit_xor, Nat.testBit_mod_two_pow, decide_eq_true hplace, Bool.true_and]
    obtain hi | rfl : i < 15 ∨ i = 15 := by omega
    · have hzero : r.toNat.testBit (8 * (15 - i) + j) = false :=
        Nat.testBit_lt_two_pow (hlow.trans_le (Nat.pow_le_pow_right (by decide) (by omega)))
      rw [getLsbD_dbl_of_lt b hi hj, hzero, Bool.xor_false]
    · rw [dbl_getElem_last, hr, BitVec.getLsbD_xor, getLsbD_shifted_last b hj]
      simp [BitVec.getLsbD]

/-- With the top bit 0, the shift drops nothing. -/
theorem two_mul_blockInt_lt {b : Block} (h : b[0].getLsbD 7 = false) : 2 * blockInt b < 2 ^ 128 := by
  by_contra hge
  have htop : (blockInt b).testBit 127 = true :=
    Nat.testBit_of_two_pow_le_and_two_pow_add_one_gt (by omega) (blockInt_lt b)
  rw [getLsbD_byte b (by decide) (by decide), htop] at h
  exact absurd h (by decide)

/-- Settles O40, from the formula for both cases. -/
theorem doublingShiftsTheInteger : Obligations.DoublingShiftsTheInteger := by
  intro b
  rw [blockInt_dbl]
  split_ifs with htop
  · rfl
  · rw [Nat.mod_eq_of_lt (two_mul_blockInt_lt (by simpa using htop))]
    exact Nat.xor_zero _

end Sys2Proof.Machine
end

section
/-! SUPPORT. Splitting and padding of a message (spec/42_cmac.md R118, R119), in the number of blocks before the last. -/

namespace Sys2Proof.Machine

theorem blockCount_eq (n : Nat) : blockCount n = (n - 1) / 16 + 1 := by
  unfold blockCount
  split_ifs <;> omega

theorem blockCount_sub_one (n : Nat) : blockCount n - 1 = (n - 1) / 16 := by
  rw [blockCount_eq, Nat.add_sub_cancel]

theorem length_lastBlock (m : List Byte) : (lastBlock m).length = m.length - 16 * ((m.length - 1) / 16) := by
  rw [lastBlock, List.length_drop, blockCount_sub_one]

/-- The first `n` blocks in order are the first `16 * n` bytes. -/
theorem flatMap_messageBlock (m : List Byte) (n : Nat) :
    (List.range n).flatMap (messageBlock m) = m.take (16 * n) := by
  induction n with
  | zero => simp
  | succ n ih =>
    rw [List.range_succ, List.flatMap_append, ih, List.flatMap_singleton, messageBlock, Nat.mul_succ, List.take_add]

/-- Settles O41, from the number of whole blocks and the length of the last. -/
theorem splittingCoversTheMessage : Obligations.SplittingCoversTheMessage := by
  intro m
  refine ⟨?empty, fun hm => ?least, ?cover, fun i hi => ?whole, ?atMost, ?emptyLast, ?complete⟩
  case empty => rintro rfl; rfl
  case least =>
    have hpos : 0 < m.length := List.length_pos_iff.2 hm
    rw [blockCount_eq]
    omega
  case cover => rw [flatMap_messageBlock, lastBlock, List.take_append_drop]
  case whole =>
    rw [blockCount_sub_one] at hi
    rw [messageBlock, List.length_take, List.length_drop]
    omega
  case atMost => rw [length_lastBlock]; omega
  case emptyLast => rw [length_lastBlock, ← List.length_eq_zero_iff]; omega
  case complete => rw [length_lastBlock]; omega

/-- Settles O42: a byte of the message, the byte `0x80`, or beyond the end of both. -/
theorem paddingBytes : Obligations.PaddingBytes := by
  intro m i hm
  rw [padBlock, Fin.getElem_fin, blockOfList_getElem]
  split_ifs with hlt heq
  · rw [List.getD_eq_getElem _ _ (by simp; omega), List.getElem_append_left hlt]
  · simp [heq]
  · exact List.getD_eq_default _ _ (by simp; omega)

/-! ### A message of one block, and a message behind a whole block -/

theorem blockCount_sub_one_of_le {n : Nat} (h : n ≤ 16) : blockCount n - 1 = 0 := by
  rw [blockCount_sub_one]
  omega

theorem wholeBlocks_of_le {m : List Byte} (h : m.length ≤ 16) : wholeBlocks m = [] := by
  rw [wholeBlocks, blockCount_sub_one_of_le h]
  rfl

theorem lastBlock_of_le {m : List Byte} (h : m.length ≤ 16) : lastBlock m = m := by
  rw [lastBlock, blockCount_sub_one_of_le h]
  rfl

theorem blockCount_block_append (b : Block) {m : List Byte} (h : 0 < m.length) :
    blockCount (b.toList ++ m).length - 1 = (blockCount m.length - 1) + 1 := by
  rw [blockCount_sub_one, blockCount_sub_one, List.length_append, Vector.length_toList]
  omega

theorem drop_block_append (b : Block) (m : List Byte) (n : Nat) :
    (b.toList ++ m).drop (16 * (n + 1)) = m.drop (16 * n) := by
  have hsplit : 16 * (n + 1) = b.toList.length + 16 * n := by rw [Vector.length_toList]; omega
  rw [hsplit, List.drop_length_add_append]

theorem wholeBlocks_block_append (b : Block) {m : List Byte} (h : 0 < m.length) :
    wholeBlocks (b.toList ++ m) = b :: wholeBlocks m := by
  have hfirst : messageBlock (b.toList ++ m) 0 = b.toList := by simp [messageBlock]
  have hnext : ∀ i, messageBlock (b.toList ++ m) (i + 1) = messageBlock m i := fun i => by
    rw [messageBlock, drop_block_append, messageBlock]
  rw [wholeBlocks, blockCount_block_append b h, List.range_succ_eq_map]
  simp [wholeBlocks, hfirst, hnext]

theorem lastBlock_block_append (b : Block) {m : List Byte} (h : 0 < m.length) :
    lastBlock (b.toList ++ m) = lastBlock m := by
  rw [lastBlock, blockCount_block_append b h, drop_block_append, lastBlock]

end Sys2Proof.Machine
end

section
/-! SUPPORT. The chain of `CMAC` (spec/42_cmac.md R121), from any chaining value: a whole block in front of a message only
changes the value from which the rest of the message is chained. -/

namespace Sys2Proof.Machine

theorem xorBlock_comm (a b : Block) : xorBlock a b = xorBlock b a := by
  ext i hi
  simp [BitVec.xor_comm]

/-- The tag of `m` when the chain starts at `x` (R121 starts it at zero). -/
def cmacFrom (k x : Block) (m : List Byte) : Block :=
  aes k (xorBlock ((wholeBlocks m).foldl (fun y b => aes k (xorBlock y b)) x) (maskedLast k m))

theorem cmac_eq_cmacFrom (k : Block) (m : List Byte) : cmac k m = cmacFrom k zeroBlock m := rfl

theorem maskedLast_eq_maskedLastBlock (k : Block) (m : List Byte) :
    maskedLast k m = maskedLastBlock k (lastBlock m) := rfl

theorem cmacFrom_of_le (k x : Block) {m : List Byte} (h : m.length ≤ 16) :
    cmacFrom k x m = aes k (xorBlock x (maskedLastBlock k m)) := by
  rw [cmacFrom, wholeBlocks_of_le h, List.foldl_nil, maskedLast_eq_maskedLastBlock, lastBlock_of_le h]

theorem cmacFrom_block_append (k x b : Block) {m : List Byte} (h : 0 < m.length) :
    cmacFrom k x (b.toList ++ m) = cmacFrom k (aes k (xorBlock x b)) m := by
  rw [cmacFrom, wholeBlocks_block_append b h, List.foldl_cons, maskedLast_eq_maskedLastBlock,
    lastBlock_block_append b h, ← maskedLast_eq_maskedLastBlock, cmacFrom]

theorem cmac_of_le (k : Block) {m : List Byte} (h : m.length ≤ 16) : cmac k m = aes k (maskedLastBlock k m) := by
  rw [cmac_eq_cmacFrom, cmacFrom_of_le k zeroBlock h, xorBlock_zeroBlock]

theorem cmac_block_append (k b : Block) {m : List Byte} (h : 0 < m.length) :
    cmac k (b.toList ++ m) = cmacFrom k (aes k b) m := by
  rw [cmac_eq_cmacFrom, cmacFrom_block_append k zeroBlock b h, xorBlock_zeroBlock]

/-- Settles O43: both messages of the last clause chain `m` from the same value. -/
theorem cmacChainsBlocks : Obligations.CmacChainsBlocks := by
  intro k b c m
  refine ⟨cmac_of_le k, fun hpos hle => ?two, fun hpos => ?longer⟩
  case two => rw [cmac_block_append k b hpos, cmacFrom_of_le k _ hle]
  case longer =>
    have hrest : 0 < (c.toList ++ m).length := by simp
    calc cmac k (b.toList ++ c.toList ++ m)
      _ = cmacFrom k (aes k b) (c.toList ++ m) := by rw [List.append_assoc, cmac_block_append k b hrest]
      _ = cmacFrom k (aes k (xorBlock c (aes k b))) m := by rw [cmacFrom_block_append k _ c hpos, xorBlock_comm]
      _ = cmac k ((xorBlock c (aes k b)).toList ++ m) := (cmac_block_append k _ hpos).symm

/-- Settles O44, by the two equations of the command. -/
theorem cmacCommand : Obligations.CmacCommand := fun _ => ⟨exec_cmac_of_le, exec_cmac_of_gt⟩

theorem padBlock_label :
    padBlock Config.label = #v[0x63, 0x61, 0x6E, 0x64, 0x79, 0x80, 0, 0, 0, 0, 0, 0, 0, 0, 0, 0] := by
  decide

/-- The label is one incomplete block (R123). -/
theorem maskedLastBlock_label (k : Block) :
    maskedLastBlock k Config.label = xorBlock (padBlock Config.label) (dbl (dbl (aes k (Vector.replicate 16 0)))) :=
  if_neg (by decide)

/-- Settles O50: the label is a message of one block; the vector is evaluated. -/
theorem labelCaseAndKnownVector : Obligations.LabelCaseAndKnownVector := by
  refine ⟨fun k => ?label, ?tag, ?address⟩
  case label => rw [cmac_of_le k (by decide), maskedLastBlock_label, padBlock_label]
  case tag => decide +kernel
  case address => decide

end Sys2Proof.Machine
end

section
/-! SUPPORT. The extraction and `EXTRACT` (spec/43_extract_derive.md R130 to R135): the six bytes, what the mask keeps of a
byte, and a tag for every address with its two top bits set. -/

namespace Sys2Proof.Machine

/-- The bytes of R134. -/
theorem extractAddress_eq (t : Block) :
    extractAddress t = #v[t[5] ||| 0xC0, t[4], t[3], t[2], t[1], t[0]] := rfl

/-! ### The mask of the first byte -/

theorem or_mask_and_mask : ∀ x : Byte, (x ||| 0xC0) &&& 0xC0 = 0xC0 := by
  decide

theorem or_mask_of_and_mask : ∀ x : Byte, x &&& 0xC0 = 0xC0 → x ||| 0xC0 = x := by
  decide

theorem or_mask_and_low : ∀ x : Byte, (x ||| 0xC0) &&& 0x3F = x &&& 0x3F := by
  decide

theorem and_low_or_mask : ∀ x : Byte, (x &&& 0x3F) ||| 0xC0 = x ||| 0xC0 := by
  decide

/-- The mask forgets bits 7 and 6 of a byte and nothing else. -/
theorem or_mask_inj (x y : Byte) : x ||| 0xC0 = y ||| 0xC0 ↔ x &&& 0x3F = y &&& 0x3F := by
  constructor
  · intro h
    rw [← or_mask_and_low x, h, or_mask_and_low y]
  · intro h
    rw [← and_low_or_mask x, h, and_low_or_mask y]

/-! ### The kernel and the image -/

theorem extractAddress_top_bits (t : Block) : (extractAddress t)[0] &&& 0xC0 = 0xC0 :=
  or_mask_and_mask t[5]

theorem extractAddress_eq_iff (t u : Block) : extractAddress t = extractAddress u ↔
    t[0] = u[0] ∧ t[1] = u[1] ∧ t[2] = u[2] ∧ t[3] = u[3] ∧ t[4] = u[4] ∧ t[5] &&& (0x3F : Byte) = u[5] &&& 0x3F := by
  rw [extractAddress_eq, extractAddress_eq, ← or_mask_inj]
  constructor
  · intro h
    obtain ⟨h5, h4, h3, h2, h1, h0⟩ : _ ∧ _ ∧ _ ∧ _ ∧ _ ∧ _ := by simpa using h
    exact ⟨h0, h1, h2, h3, h4, h5⟩
  · rintro ⟨h0, h1, h2, h3, h4, h5⟩
    rw [h0, h1, h2, h3, h4, h5]

/-- A tag whose first six bytes are those of an address, last byte first. -/
def tagOfAddress (a : DeviceAddress) : Block := blockOfList a.toList.reverse

/-- The extraction undoes the reversal and masks the first byte. -/
theorem extractAddress_tagOfAddress (a : DeviceAddress) : extractAddress (tagOfAddress a) = maskFirst a := by
  have hreverse : reverseSix (firstSix (tagOfAddress a)) = a := by
    apply Vector.ext
    intro i hi
    have hback : 5 - (5 - i) = i := by omega
    simp [reverseSix, firstSix, tagOfAddress, hback]
  rw [extractAddress, hreverse]

theorem maskFirst_of_top_bits {a : DeviceAddress} (h : a[0] &&& 0xC0 = 0xC0) : maskFirst a = a := by
  have hfirst : a[0] ||| Config.mask = a[0] := or_mask_of_and_mask a[0] h
  rw [maskFirst, hfirst, Vector.set_getElem_self]

/-- Settles O46: what the mask forgets, and the tag of the reversed address. -/
theorem extractionKernelAndImage : Obligations.ExtractionKernelAndImage := by
  refine ⟨extractAddress_eq_iff, fun a => ⟨?_, fun h => ⟨tagOfAddress a, ?_⟩⟩⟩
  · rintro ⟨t, rfl⟩
    exact extractAddress_top_bits t
  · rw [extractAddress_tagOfAddress, maskFirst_of_top_bits h]

/-- Settles O45, by the equation of the command and the bytes of R134. -/
theorem extractCommand : Obligations.ExtractCommand := fun s => by
  rw [exec_extract, extractAddress_eq]
  rfl

end Sys2Proof.Machine
end

section
/-! SUPPORT. `DERIVE` (spec/43_extract_derive.md R138 to R141), and its stages: `ldmsg` writes `MSG` and `MSGLEN` and nothing
else, so `CMAC` and `EXTRACT` after it compute from the label what `DERIVE` does. -/

namespace Sys2Proof.Machine

theorem next_unique {o : Host.Outcome State Fault Refusal} {t u : State} (ht : o = .next t) (hu : o = .next u) : t = u :=
  Host.Outcome.next.inj (ht.symm.trans hu)

/-- Settles O47, by the two equations of `DERIVE`. -/
theorem deriveCommand : Obligations.DeriveCommand := fun _ =>
  ⟨fun _ hk => (exec_derive_of_some hk).trans rfl, fun hk => statusOfErr_parseError ▸ exec_derive_of_none hk⟩

/-- Settles O49: both commands take the address from the extraction, and a `DERIVE` that fails leaves another `STATUS`. -/
theorem derivedAddressHasTopBits : Obligations.DerivedAddressHasTopBits := by
  rintro s t (⟨hderive, hstatus⟩ | hextract)
  · cases hparse : parseUuid s.strlen s.str with
    | some k =>
      obtain rfl := next_unique (exec_derive_of_some hparse) hderive
      exact extractAddress_top_bits _
    | none =>
      obtain rfl := next_unique (exec_derive_of_none hparse) hderive
      exact absurd hstatus (statusOfErr_ne_ok .parseError)
  · obtain rfl := next_unique (exec_extract s) hextract
    exact extractAddress_top_bits _

/-! ### The message registers in the window -/

section Message

variable {a : Byte} {s : State}

theorem hostRead_msg {i : Fin 64} (ha : a.toNat = 0x90 + i) (s : State) : hostRead a s = s.msg[i] :=
  hostRead_of_address (l := .msg i) (congrArg some ha.symm) s

/-- An address reads the same after `MSG` is replaced, unless it holds a byte of `MSG` that differs. -/
theorem hostRead_setMsg_of_eq {m : MsgBuffer} (h : ∀ i : Fin 64, a.toNat = 0x90 + i → m[i] = s.msg[i]) :
    hostRead a (s.setMsg m) = hostRead a s :=
  hostRead_congr fun l hl => by
    cases l with
    | msg i => exact h i (Option.some.inj hl).symm
    | _ => rfl

theorem hostRead_setMsglen_of_ne (ha : a.toNat ≠ 0x03) (v : Byte) : hostRead a (s.setMsglen v) = hostRead a s :=
  hostRead_congr fun l hl => by
    cases l with
    | msglen => exact absurd (Option.some.inj hl).symm ha
    | _ => rfl

end Message

/-- Writes to the first bytes of `MSG` change only these. -/
theorem transactAll_writesFrom_msg {h : List Byte} (hlen : h.length ≤ 64) (s : State) :
    ∃ m : MsgBuffer, transactAll (writesFrom (bufferBase .msg) h) s = .next (s.setMsg m) ∧
      m.toList.take h.length = h ∧ ∀ i : Fin 64, h.length ≤ i.val → m[i] = s.msg[i] := by
  obtain ⟨u, hu, hpending, hreplies, hwritten, hframe⟩ :=
    transactAll_writesFrom (base := bufferBase .msg) (bs := h) (by decide) (by simp [bufferBase]; omega) s
  simp only [bufferBase] at hwritten hframe
  have hsame : u = s.setMsg u.msg := by
    refine state_eq_of_hostRead_eq (fun a => ?_) hpending hreplies
    by_cases ha : ∃ i : Fin 64, a.toNat = 0x90 + i
    · obtain ⟨i, hi⟩ := ha
      rw [hostRead_msg hi, hostRead_msg hi, State.setMsg_msg]
    · have hout : a.toNat < 0x90 ∨ 0x90 + h.length ≤ a.toNat := by
        by_contra hin
        exact ha ⟨⟨a.toNat - 0x90, by omega⟩, by simp; omega⟩
      rw [hframe a hout, hostRead_setMsg_of_eq fun i hi => absurd ⟨i, hi⟩ ha]
  refine ⟨u.msg, hsame ▸ hu, List.ext_getElem (by simp [hlen]) fun i hi hih => ?_, fun i hi => ?_⟩
  · have hi64 : i < 64 := by omega
    have hloc : locate (BitVec.ofNat 8 (0x90 + i)) = .msg ⟨i, hi64⟩ := locate_address (.msg ⟨i, hi64⟩) _ rfl
    have hread := hwritten i hih (congrArg Loc.access hloc)
    rw [hostRead_ofNat (l := .msg ⟨i, hi64⟩) rfl] at hread
    simpa [loadByte, hih] using hread
  · have hread := hframe (BitVec.ofNat 8 (0x90 + i)) (.inr (by simp; omega))
    rw [hostRead_ofNat (l := .msg i) rfl, hostRead_ofNat (l := .msg i) rfl] at hread
    exact hread

/-- `ldmsg` loads a message: it stands at the front of `MSG`, its length in `MSGLEN`, and the rest stays (R66). -/
theorem transactAll_ldmsg {h : List Byte} (hlen : h.length ≤ 64) (s : State) :
    ∃ m : MsgBuffer, transactAll (lineTransactions (.ldmsg h)) s =
        .next ((s.setMsg m).setMsglen (BitVec.ofNat 8 h.length)) ∧
      m.toList.take h.length = h ∧ ∀ i : Fin 64, h.length ≤ i.val → m[i] = s.msg[i] := by
  obtain ⟨m, hm, htake, hrest⟩ := transactAll_writesFrom_msg hlen s
  refine ⟨m, ?_, htake, hrest⟩
  rw [lineTransactions, transactAll_append, hm, andThen_next, transactAll_singleton]
  rfl

/-- The stages after `PARSE` (R140): the message registers, then `TAG` and `ADDR` from the message. -/
theorem transactAll_stages {h : List Byte} (hlen : h.length ≤ 64) (s : State) :
    ∃ m : MsgBuffer, transactAll (scriptTransactions [.ldmsg h, .cmd .cmac, .cmd .extract]) s =
        .next (((((s.setTag (cmac s.key h)).setAddr (extractAddress (cmac s.key h))).setStatus statusOk).setMsg m).setMsglen
          (BitVec.ofNat 8 h.length)) ∧
      ∀ i : Fin 64, h.length ≤ i.val → m[i] = s.msg[i] := by
  obtain ⟨m, hload, htake, hrest⟩ := transactAll_ldmsg hlen s
  have hcount : (BitVec.ofNat 8 h.length).toNat = h.length := Nat.mod_eq_of_lt (by omega)
  have hmessage : messageOperand ((s.setMsg m).setMsglen (BitVec.ofNat 8 h.length)) = h := by
    simp [messageOperand, hcount, htake]
  have hscript : scriptTransactions [.ldmsg h, .cmd .cmac, .cmd .extract] =
      lineTransactions (.ldmsg h) ++ [commandWrite .cmac, commandWrite .extract] := rfl
  refine ⟨m, ?_, hrest⟩
  rw [hscript, transactAll_append, hload, andThen_next, transactAll_cons, transact_commandWrite,
    exec_cmac_of_le (by simp [hcount, hlen]), andThen_next, transactAll_singleton, transact_commandWrite, exec_extract,
    hmessage]
  rfl

/-- Settles O48: a successful `DERIVE` and the stages differ in `MSG` and `MSGLEN` only. -/
theorem deriveEqualsItsStages : Obligations.DeriveEqualsItsStages := by
  intro s
  cases hparse : parseUuid s.strlen s.str with
  | some k =>
    refine ⟨fun p d hp _ hd => ?_, fun p d hp hstatus _ => ?_⟩
    · obtain rfl := next_unique (exec_parse_of_some hparse) hp
      obtain rfl := next_unique (exec_derive_of_some hparse) hd
      obtain ⟨m, hstages, hrest⟩ := transactAll_stages (h := Config.label) (by decide) ((s.setKey k).setStatus statusOk)
      refine ⟨_, hstages, rfl, rfl, rfl, rfl, fun a hmsglen hmsg => ?_⟩
      have hbyte : ∀ i : Fin 64, a.toNat = 0x90 + i → m[i] = s.msg[i] := fun i hi =>
        hrest i (by simp [Config.label]; omega)
      exact (hostRead_setMsglen_of_ne hmsglen _).trans (hostRead_setMsg_of_eq hbyte)
    · obtain rfl := next_unique (exec_parse_of_some hparse) hp
      exact absurd rfl hstatus
  | none =>
    refine ⟨fun p d hp hstatus _ => ?_, fun p d hp _ hd => ?_⟩
    · obtain rfl := next_unique (exec_parse_of_none hparse) hp
      exact absurd hstatus (statusOfErr_ne_ok .parseError)
    · obtain rfl := next_unique (exec_parse_of_none hparse) hp
      obtain rfl := next_unique (exec_derive_of_none hparse) hd
      rw [statusOfErr_parseError]
      exact ⟨rfl, rfl⟩

end Sys2Proof.Machine
end

section
/-! SUPPORT. The display form of an address (spec/43_extract_derive.md R145). -/

namespace Sys2Proof.Machine

/-- The two digits of byte `i` stand at `3*i` and `3*i + 1`. -/
theorem formatAddr_digits (a : DeviceAddress) (i : Fin 6) :
    (formatAddr a)[3 * i.val]? = some (hexDigitOf (a[i] >>> 4)) ∧
      (formatAddr a)[3 * i.val + 1]? = some (hexDigitOf (a[i] &&& 0x0F)) := by
  fin_cases i <;> exact ⟨rfl, rfl⟩

theorem formatAddr_colon (a : DeviceAddress) (i : Fin 5) : (formatAddr a)[3 * i.val + 2]? = some colon := by
  fin_cases i <;> rfl

/-- No digit of a nibble is an upper-case letter. -/
theorem hexDigitOf_not_upperCase : ∀ b : Byte,
    ¬ (0x41 ≤ (hexDigitOf (b >>> 4)).toNat ∧ (hexDigitOf (b >>> 4)).toNat ≤ 0x46) ∧
      ¬ (0x41 ≤ (hexDigitOf (b &&& 0x0F)).toNat ∧ (hexDigitOf (b &&& 0x0F)).toNat ≤ 0x46) := by
  decide

/-- Settles O52, from the digits of each byte. -/
theorem displayForm : Obligations.DisplayForm := by
  refine fun a => ⟨rfl, fun i => ?_, formatAddr_colon a⟩
  obtain ⟨hhigh, hlow⟩ := formatAddr_digits a i
  exact ⟨_, _, hhigh, hlow, exists_hexDigitValue_nibbles a[i], hexDigitOf_not_upperCase a[i]⟩

end Sys2Proof.Machine
end

section
/-! SUPPORT. `CLEAR` (spec/44_system.md R146) zeroes what `Reset` zeroes; only `STATUS`, which it then writes, could differ. -/

namespace Sys2Proof.Machine

theorem zeroRegisters_setStatus (s : State) (x : Byte) : (zeroRegisters s).setStatus x = (resetBlock s).setStatus x := rfl

/-- Settles O53, through the state `Reset` leaves. -/
theorem clearCommand : Obligations.ClearCommand := fun s =>
  calc exec .clear s
    _ = .next ((zeroRegisters s).setStatus statusOk) := exec_clear s
    _ = .next ((resetBlock s).setStatus statusOk) := congrArg _ (zeroRegisters_setStatus s statusOk)
    _ = .next { State.reset with status := 0x01, pending := s.pending, replies := s.replies } := rfl

end Sys2Proof.Machine
end

section
/-! SUPPORT. The errors of the commands (spec/60_exceptions.md R150, R153, R154): a command completes, or raises one of its
own errors on the state before it. -/

namespace Sys2Proof.Machine

/-- The errors each command can raise (R154). -/
def commandErrors : Instr → List Err
  | .parse => [.parseError]
  | .ecbenc => []
  | .cmac => [.badLength]
  | .extract => []
  | .derive => [.parseError]
  | .clear => []

section Errors

variable {i : Instr} {s t : State}

theorem exec_completes_or_raises (h : exec i s = .next t) :
    t.status = statusOk ∨ ∃ e ∈ commandErrors i, raise e s = .next t := by
  rcases exec_cases i s t h with ⟨-, k, -, rfl⟩ | ⟨-, rfl⟩ | ⟨-, -, rfl⟩ | ⟨-, rfl⟩ | ⟨-, k, -, rfl⟩ | ⟨-, rfl⟩ |
    ⟨rfl, -, rfl⟩ | ⟨rfl, -, rfl⟩ | ⟨rfl, -, rfl⟩
  · exact .inl rfl
  · exact .inl rfl
  · exact .inl rfl
  · exact .inl rfl
  · exact .inl rfl
  · exact .inl rfl
  · exact .inr ⟨.parseError, List.mem_singleton_self _, rfl⟩
  · exact .inr ⟨.parseError, List.mem_singleton_self _, rfl⟩
  · exact .inr ⟨.badLength, List.mem_singleton_self _, rfl⟩

/-- `STATUS` after a command is its success value or that of one of its own errors. -/
theorem exec_status (h : exec i s = .next t) :
    t.status = 0x01 ∨ ∃ e ∈ commandErrors i, t.status = statusOfErr e := by
  refine (exec_completes_or_raises h).imp_right fun ⟨e, he, hraise⟩ => ⟨e, he, ?_⟩
  rw [← next_unique (raise_eq e s) hraise, State.setStatus_status]

end Errors

/-- Settles O20: a completed command leaves `ERR = 0`, so one that ends with `ERR = 1` has raised an error. -/
theorem errorReplacesStatusOnly : Obligations.ErrorReplacesStatusOnly := by
  refine ⟨raise_eq, fun i s t h herr => ?_⟩
  rcases exec_completes_or_raises h with hok | ⟨e, -, hraise⟩
  · rw [hok] at herr
    exact absurd herr (by decide)
  · exact ⟨e, hraise⟩

/-- Settles O21, from the errors of each command and their codes. -/
theorem eachCommandHasItsOwnErrors : Obligations.EachCommandHasItsOwnErrors := by
  intro s t
  refine ⟨fun h => ?_, fun h => ?_, fun h => ?_, fun h => ?_, fun h => ?_, fun h => ?_⟩ <;>
    simpa [commandErrors] using exec_status h

end Sys2Proof.Machine
end

section
/-! SUPPORT. The whole state in the window, and systems of several instances (spec/60_exceptions.md R163, R164). -/

namespace Sys2Proof.Machine

/-- Settles O15: the window does not show the host's side, so giving `s` the host's side of `t` makes the states equal. -/
theorem windowShowsEveryRegister : Obligations.WindowShowsEveryRegister := by
  intro s t h
  have hwindow : ∀ a, hostRead a t = hostRead a ((s.setPending t.pending).setReplies t.replies) := fun a => by
    rw [hostRead_setReplies, hostRead_setPending, h]
  exact state_eq_of_hostRead_eq hwindow rfl rfl

section Instances

variable {n : Nat} {i j : Fin n} {x : Transaction}

theorem ownTransactions_cons_same (rest : Schedule n) :
    ownTransactions i ((i, x) :: rest) = x :: ownTransactions i rest := by
  simp [ownTransactions]

theorem ownTransactions_cons_of_ne (h : j ≠ i) (rest : Schedule n) :
    ownTransactions i ((j, x) :: rest) = ownTransactions i rest := by
  simp [ownTransactions, h]

theorem runSchedule_cons {sys : System n} {t : State} (h : transact x sys[j] = .next t) (rest : Schedule n) :
    runSchedule ((j, x) :: rest) sys = runSchedule rest (sys.set j t) := by
  rw [runSchedule, transactOn, h, liftOutcome]

/-- The first transaction of an interleaving belongs to the sequence of the block it names and to no other. -/
theorem transactAll_ownTransactions_cons {sys : System n} {t : State} (h : transact x sys[j] = .next t)
    (rest : Schedule n) (i : Fin n) :
    transactAll (ownTransactions i ((j, x) :: rest)) sys[i] = transactAll (ownTransactions i rest) (sys.set j t)[i] := by
  by_cases hji : j = i
  · subst hji
    rw [ownTransactions_cons_same, transactAll_cons, h, andThen_next]
    simp
  · rw [ownTransactions_cons_of_ne hji]
    simp [Fin.val_ne_iff.2 hji]

end Instances

/-- Settles O58, by induction on the interleaving: every transaction completes. -/
theorem instancesAreIndependent : Obligations.InstancesAreIndependent := by
  intro n sched
  induction sched with
  | nil => exact fun sys => ⟨sys, rfl, fun _ => rfl⟩
  | cons entry rest ih =>
    intro sys
    obtain ⟨j, x⟩ := entry
    obtain ⟨t, ht, -⟩ := transact_ignores_pending x sys[j]
    obtain ⟨sys', hrun, hown⟩ := ih (sys.set j t)
    exact ⟨sys', (runSchedule_cons ht rest).trans hrun, fun i => (transactAll_ownTransactions_cons ht rest i).trans (hown i)⟩

end Sys2Proof.Machine
end

section
/-! SUPPORT. Reset and progress (spec/70_reset_and_hazards.md R170, R174): every step answers a next state, and since it
keeps the invariant of Safety.lean, every run from a state that meets it goes on and stays safe. -/

namespace Sys2Proof.Machine

theorem step_goes_on (s : State) : stepGoesOn s := by
  cases h : s.pending with
  | nil => exact ⟨s, step_of_pending_nil h⟩
  | cons x xs =>
    obtain ⟨t, ht, -⟩ := transact_ignores_pending x (s.setPending xs)
    exact ⟨t, (step_cons s x xs h).trans ht⟩

/-- Settles O54: a step takes no transaction or one, and every transaction completes. -/
theorem everyStepGoesOn : Obligations.EveryStepGoesOn := step_goes_on

/-- Settles O57, by induction on the number of steps: a step answers a next state, which meets the invariant again. -/
theorem runsStaySafe : Obligations.RunsStaySafe := by
  intro n
  induction n with
  | zero => exact fun s hs => hs
  | succ n ih =>
    intro s hs
    obtain ⟨t, ht⟩ := step_goes_on s
    exact ⟨hs, t, ht, ih t (stepKeepsTheInvariant s t hs ht)⟩

/-- Settles O18: the step takes the pending `Reset`, which keeps the host's side only. -/
theorem resetTransactionRestoresReset : Obligations.ResetTransactionRestoresReset := fun s rest h =>
  calc step s
    _ = transact .reset (s.setPending rest) := step_cons s .reset rest h
    _ = .next { State.reset with pending := rest, replies := s.replies } := rfl

end Sys2Proof.Machine
end

section
/-! SUPPORT. The cipher evaluations of the commands (spec/70_reset_and_hazards.md R175): the rounds of one evaluation, the
chain of evaluations behind a tag (spec/42_cmac.md R116 to R121), and the evaluations of each command by cases. -/

namespace Sys2Proof.Machine

/-! ### One evaluation -/

theorem output_mk (k b : Block) : CipherCall.output ⟨k, b⟩ = aes k b := rfl

/-- The cipher's state before round 1 and after each of the ten rounds (R103). -/
def roundStates (c : CipherCall) : Vector Block 11 :=
  (Vector.ofFn fun r : Fin 10 => cipherState c.key c.input r).push c.output

theorem roundStates_of_lt (c : CipherCall) {r : Nat} (h : r < 10) :
    (roundStates c)[r] = cipherState c.key c.input r := by
  rw [roundStates, Vector.getElem_push_lt h, Vector.getElem_ofFn]

theorem roundStates_last (c : CipherCall) : (roundStates c)[10] = c.output :=
  Vector.getElem_push_eq

theorem runsTenRounds (c : CipherCall) : RunsTenRounds c := by
  refine ⟨length_keyWords c.key, roundStates c, ?first, fun r => ?next, ?tenth, roundStates_last c⟩
  case first => exact roundStates_of_lt c (by decide)
  case next =>
    rw [roundStates_of_lt c (show r.val + 1 < 10 by omega), roundStates_of_lt c (show r.val < 10 by omega)]
    exact cipherState_succ c.key c.input r
  case tenth =>
    rw [roundStates_last, roundStates_of_lt c (show 9 < 10 by decide)]
    rfl

/-! ### The evaluations behind a tag -/

section Chain

variable (k last : Block)

theorem length_chainInputs (x : Block) (ms : List Block) : (chainInputs k x last ms).length = ms.length + 1 := by
  induction ms generalizing x with
  | nil => rfl
  | cons m ms ih => rw [chainInputs, List.length_cons, ih, List.length_cons]

/-- An input of the chain is the value before it, first `x` and then each output in turn, xored with its block. -/
theorem chainInputs_eq_xorBlock (x : Block) (ms : List Block) {j : Nat} {b : Block}
    (h : (chainInputs k x last ms)[j]? = some b) :
    b = xorBlock ((x :: (chainInputs k x last ms).map (aes k)).getD j zeroBlock) (ms.getD j last) := by
  induction ms generalizing x j with
  | nil =>
    cases j with
    | zero => exact (Option.some.inj h).symm
    | succ j => cases h
  | cons m ms ih =>
    cases j with
    | zero => exact (Option.some.inj h).symm
    | succ j =>
      rw [chainInputs, List.getElem?_cons_succ] at h
      rw [chainInputs, List.map_cons, List.getD_cons_succ, List.getD_cons_succ]
      exact ih (aes k (xorBlock x m)) h

/-- The last input is the chaining value after the whole blocks, xored with the last block. -/
theorem getLast?_chainInputs (x : Block) (ms : List Block) :
    (chainInputs k x last ms).getLast? = some (xorBlock (ms.foldl (fun y m => aes k (xorBlock y m)) x) last) := by
  induction ms generalizing x with
  | nil => rfl
  | cons m ms ih => rw [chainInputs, List.getLast?_cons, ih, Option.getD_some, List.foldl_cons]

end Chain

theorem length_wholeBlocks (m : List Byte) : (wholeBlocks m).length = blockCount m.length - 1 := by
  rw [wholeBlocks, List.length_map, List.length_range]

theorem wholeBlocks_getD (m : List Byte) (j : Nat) (last : Block) :
    (wholeBlocks m).getD j last = if j < blockCount m.length - 1 then blockOfList (messageBlock m j) else last := by
  split_ifs with h
  · rw [List.getD_eq_getElem _ _ (length_wholeBlocks m ▸ h)]
    simp [wholeBlocks]
  · exact List.getD_eq_default _ _ (by rw [length_wholeBlocks]; omega)

/-- The blocks that `CMAC(K, M)` enciphers after the zero block. -/
def cmacInputs (k : Block) (m : List Byte) : List Block := chainInputs k zeroBlock (maskedLast k m) (wholeBlocks m)

theorem length_cmacInputs (k : Block) (m : List Byte) : (cmacInputs k m).length = blockCount m.length := by
  rw [cmacInputs, length_chainInputs, length_wholeBlocks, blockCount_eq, Nat.add_sub_cancel]

theorem length_cmacCalls (k : Block) (m : List Byte) : (cmacCalls k m).length = blockCount m.length + 1 := by
  rw [cmacCalls, List.length_map, List.length_cons, ← cmacInputs, length_cmacInputs]

/-- The value before evaluation `j` of the chain: zero, or the output of the evaluation before. -/
theorem previousOutput_eq (k : Block) (bs : List Block) (j : Nat) :
    (zeroBlock :: bs.map (aes k)).getD j zeroBlock =
      if j = 0 then zeroBlock else ((bs.map (CipherCall.mk k))[j - 1]?.map CipherCall.output).getD zeroBlock := by
  cases j with
  | zero => rfl
  | succ j => simp [output_mk, Function.comp_def]

theorem callsComputeTag_cmac (k : Block) (m : List Byte) : CallsComputeTag k m (cmacCalls k m) (cmac k m) := by
  refine ⟨fun c hc => ⟨?key, runsTenRounds c⟩, ⟨k, zeroBlock⟩, (cmacInputs k m).map (CipherCall.mk k), rfl, rfl,
    (List.length_map _).trans (length_cmacInputs k m), fun j c hc => ?input, ?tag⟩
  case key =>
    obtain ⟨b, -, rfl⟩ := List.mem_map.1 hc
    rfl
  case input =>
    obtain ⟨b, hb, rfl⟩ : ∃ b, (cmacInputs k m)[j]? = some b ∧ CipherCall.mk k b = c := by simpa using hc
    have hlast : j + 1 < blockCount m.length ↔ j < blockCount m.length - 1 := by omega
    rw [← previousOutput_eq, List.length_map, length_cmacInputs, if_congr hlast rfl rfl]
    exact (chainInputs_eq_xorBlock k _ zeroBlock _ hb).trans (congrArg _ (wholeBlocks_getD m j _))
  case tag =>
    rw [List.getLast?_map, cmacInputs, getLast?_chainInputs]
    rfl

/-! ### The evaluations of the commands -/

section Commands

variable {s : State} {k : Block}

theorem commandCipherCalls_cmac_of_le (h : s.msglen.toNat ≤ 64) :
    commandCipherCalls .cmac s = cmacCalls s.key (messageOperand s) := by
  simp [commandCipherCalls, messageTooLong, h]

theorem commandCipherCalls_cmac_of_gt (h : 64 < s.msglen.toNat) : commandCipherCalls .cmac s = [] := by
  simp [commandCipherCalls, messageTooLong, h]

theorem commandCipherCalls_derive_of_some (h : parseUuid s.strlen s.str = some k) :
    commandCipherCalls .derive s = cmacCalls k Config.label := by
  simp [commandCipherCalls, h]

theorem commandCipherCalls_derive_of_none (h : parseUuid s.strlen s.str = none) : commandCipherCalls .derive s = [] := by
  simp [commandCipherCalls, h]

theorem length_messageOperand (h : s.msglen.toNat ≤ 64) : (messageOperand s).length = s.msglen.toNat := by
  rw [messageOperand, List.length_take, Vector.length_toList, Nat.min_eq_left h]

/-- `CMAC` makes one evaluation more than its message has blocks. -/
theorem length_commandCipherCalls_cmac (s : State) : (commandCipherCalls .cmac s).length =
    if s.msglen.toNat ≤ 16 then 2 else if s.msglen.toNat ≤ 32 then 3 else if s.msglen.toNat ≤ 48 then 4
    else if s.msglen.toNat ≤ 64 then 5 else 0 := by
  rcases Nat.lt_or_ge 64 s.msglen.toNat with hgt | hle
  · rw [commandCipherCalls_cmac_of_gt hgt, List.length_nil]
    split_ifs <;> omega
  · rw [commandCipherCalls_cmac_of_le hle, length_cmacCalls, length_messageOperand hle, blockCount_eq]
    split_ifs <;> omega

end Commands

/-- Settles O59: the tag of `CMAC` and `DERIVE` is the end of their chain of evaluations, whose length the number of blocks
gives. -/
theorem cipherEvaluationCounts : Obligations.CipherEvaluationCounts := by
  intro s
  refine ⟨⟨rfl, ?parse⟩, ⟨rfl, exec_extract s⟩, ⟨rfl, exec_clear s⟩,
    ⟨⟨s.key, s.blkin⟩, rfl, rfl, rfl, runsTenRounds _, exec_ecbenc s⟩, length_commandCipherCalls_cmac s, ?cmac, ?derive⟩
  case parse =>
    split
    next k hk => exact exec_parse_of_some hk
    next hk => exact statusOfErr_parseError ▸ exec_parse_of_none hk
  case cmac =>
    split_ifs with hle
    · rw [commandCipherCalls_cmac_of_le hle]
      exact ⟨_, callsComputeTag_cmac s.key (messageOperand s), exec_cmac_of_le hle⟩
    · have hgt : 64 < s.msglen.toNat := Nat.lt_of_not_le hle
      exact statusOfErr_badLength ▸ exec_cmac_of_gt hgt
  case derive =>
    split
    next k hk =>
      rw [commandCipherCalls_derive_of_some hk]
      exact ⟨length_cmacCalls k Config.label, _, callsComputeTag_cmac k Config.label, exec_derive_of_some hk⟩
    next hk => exact ⟨commandCipherCalls_derive_of_none hk, statusOfErr_parseError ▸ exec_derive_of_none hk⟩

end Sys2Proof.Machine
end
